-- ==== Sys2Proof/Word.lean ====
section
/-! DEFINITION. The word types of the TTB block (spec/00_scope.md R12, spec/30_encoding.md R56 and R62).
Bit 0 is the least significant bit throughout. -/

namespace Sys2Proof

/-- A `u8`: one byte on the wire, or the CRC register. -/
abbrev Byte := BitVec 8

/-- A channel number 0..7 (R1, R57: every value of the `CH` field is a legal channel). -/
abbrev Chan := Fin 8

/-- A 64-bit command word (R56). -/
abbrev CmdWord := BitVec 64

/-- A 64-bit response word (R62). -/
abbrev RespWord := BitVec 64

/-- The 56-bit `DATA` field of a response word (R62). -/
abbrev Data := BitVec 56

/-- A cached sample, a `u16` (R35). -/
abbrev Sample := BitVec 16

/-- A waypoint time: unsigned Q16.16 seconds (R34, R58). -/
abbrev RawTime := BitVec 32

/-- A waypoint PWM value: the 16-bit two's complement pattern (R34, R57). -/
abbrev RawPwm := BitVec 16

end Sys2Proof
end

