-- ==== Sys2Proof/Machine/Types.lean ====
section
/-! DEFINITION. The named things of the spec: link states, modes, error codes, events, registers, waypoints, transport
requests and answers, and the moves of the agents. -/

namespace Sys2Proof.Machine

/-- `LinkState` (spec/10_state.md R20). The code 3 "is never held", so it has no constructor. -/
inductive LinkState where
  | closed
  | openIdle
  | openStreaming
deriving DecidableEq, Repr, Inhabited

/-- The 2-bit encoding of R20. -/
def LinkState.code : LinkState → BitVec 2
  | .closed => 0
  | .openIdle => 1
  | .openStreaming => 2

/-- `InterpolationMode` (R21). The code 3 "is never held", so it has no constructor. -/
inductive Mode where
  | linear
  | stepHold
  | polynomial
deriving DecidableEq, Repr, Inhabited

/-- The 2-bit encoding of R21. -/
def Mode.code : Mode → BitVec 2
  | .linear => 0
  | .stepHold => 1
  | .polynomial => 2

/-- The error codes of spec/60_exceptions.md R117. Codes 0x0D-0xFF are "never produced". -/
inductive ErrCode where
  | ok
  | insufficientData
  | noWaveformData
  | indexOutOfRange
  /-- Reserved and never returned (spec/44_framer.md R98). -/
  | wrongChannelCount
  | linkOpenFailed
  | linkNotOpen
  | writeFailed
  | illegalCommand
  | invalidArgument
  | invalidState
  | storeFull
  | cacheOverflow
deriving DecidableEq, Repr, Inhabited

/-- The 8-bit code of an error (R117). -/
def ErrCode.code : ErrCode → BitVec 8
  | .ok => 0x00
  | .insufficientData => 0x01
  | .noWaveformData => 0x02
  | .indexOutOfRange => 0x03
  | .wrongChannelCount => 0x04
  | .linkOpenFailed => 0x05
  | .linkNotOpen => 0x06
  | .writeFailed => 0x07
  | .illegalCommand => 0x08
  | .invalidArgument => 0x09
  | .invalidState => 0x0A
  | .storeFull => 0x0B
  | .cacheOverflow => 0x0C

/-- The four event sources of spec/10_state.md R29. -/
inductive Event where
  | runDone
  | forcedStop
  | emptyChannel
  | tickOverrun
deriving DecidableEq, Repr, Inhabited

/-- The event's bit in `S.events`, as a mask (R29). -/
def Event.mask : Event → BitVec 16
  | .runDone => 0x0001
  | .forcedStop => 0x0002
  | .emptyChannel => 0x0004
  | .tickOverrun => 0x0008

/-- The defined registers of the map of R36, 0x00 to 0x11 in order. -/
inductive Reg where
  | link
  | mode
  | freq
  | interval
  | port
  | baud
  | cursor
  | stepCount
  | rmax
  | curveValid
  | cacheStale
  | events
  | eventEn
  | lastErr
  | crc
  | tickCtr
  | tickPending
  | irq
deriving DecidableEq, Repr, Inhabited

/-- A waypoint `(time: u32, pwm: s16)` (R34): the time is `time / 65536` seconds, the PWM the two's complement pattern. -/
structure Waypoint where
  time : RawTime
  pwm : RawPwm
deriving DecidableEq, Repr, Inhabited

/-- The outcome of `TransportOpen` (spec/45_scheduler.md R100). -/
inductive OpenOutcome where
  | ok
  | fail
deriving DecidableEq, Repr, Inhabited

/-- The outcome of `TransportWrite` (R100). On `failed n` the bytes that reached the wire are the first `n` of those
written (all of them when there are no more than `n`): "any prefix of `bytes`, possibly empty, possibly all (a draw)". -/
inductive WriteOutcome where
  | ok
  | notOpen
  | failed (sent : Nat)
deriving DecidableEq, Repr, Inhabited

/-- One entry of the output history (R39): a transport request with its outcome. -/
inductive TransportEvent where
  | opened (port baud : BitVec 32) (r : OpenOutcome)
  | wrote (bytes : List Byte) (r : WriteOutcome)
  | closed
deriving DecidableEq, Repr, Inhabited

/-- Which agent moves (spec/00_scope.md R8; spec/20_memory.md R48; spec/70_reset_and_hazards.md R134). -/
inductive Move where
  /-- The host puts a command word on the command port. -/
  | present (w : CmdWord)
  /-- The block performs the waiting host command. -/
  | command
  /-- The timebase strobes (R109). -/
  | strobe
  /-- The scheduler takes the pending tick (R110). -/
  | tick
  /-- Reset (R134). -/
  | reset
deriving DecidableEq, Repr, Inhabited

/-- The byte order of words on a byte-wide host bus (`HOST_BUS_ORDER`, spec/20_memory.md R43, OPEN): bits `8*i+7..8*i` of
a word are the bus byte at place `order i`, the places counted from the lowest address, for any arrangement of the eight
bytes. DESIGN CHOICE (log 15): that a bus carries a word as its eight bytes, each once and whole. -/
abbrev ByteOrder := Equiv.Perm (Fin 8)

/-- Least significant byte at the lowest address: one of the arrangements `HOST_BUS_ORDER` may be (log 15). -/
abbrev ByteOrder.littleEndian : ByteOrder := Equiv.refl (Fin 8)

/-- Most significant byte at the lowest address: another. -/
abbrev ByteOrder.bigEndian : ByteOrder := Fin.revPerm

end Sys2Proof.Machine
end

