-- ==== Sys2Proof/Syntax.lean ====
section
/-! DEFINITION. The command set: one constructor per row of spec/opcode_table.json, with the operands that
spec/30_encoding.md R60 gives the row and nothing else. -/

namespace Sys2Proof

/-- The 20 host commands (R59). An operand has the width of the field that carries it (R56), so every term is a command a
host can issue; whether its operand values are legal is the commands' own check (WellFormed.lean). -/
inductive Instr where
  /-- `NOP` (R113). -/
  | nop
  /-- `REG_READ reg` (R114): `IDX` is a register number. -/
  | regRead (reg : BitVec 8)
  /-- `EVT_EN mask` (R115). -/
  | evtEn (mask : BitVec 16)
  /-- `EVT_CLEAR mask` (R116). -/
  | evtClear (mask : BitVec 16)
  /-- `CRC_CLEAR` (R69). -/
  | crcClear
  /-- `CRC_FEED byte` (R70): the whole `A16` field; only its low byte may be non-zero. -/
  | crcFeed (byte : BitVec 16)
  /-- `WP_ADD ch, time, pwm` (R74). -/
  | wpAdd (ch : Chan) (time : RawTime) (pwm : RawPwm)
  /-- `WP_UPDATE ch, idx, time, pwm` (R75). -/
  | wpUpdate (ch : Chan) (idx : BitVec 8) (time : RawTime) (pwm : RawPwm)
  /-- `WP_REMOVE ch, idx` (R76). -/
  | wpRemove (ch : Chan) (idx : BitVec 8)
  /-- `WP_READ ch, idx` (R77). -/
  | wpRead (ch : Chan) (idx : BitVec 8)
  /-- `WP_COUNT ch` (R78). -/
  | wpCount (ch : Chan)
  /-- `SET_MODE mode` (R86): the whole `A16` field. -/
  | setMode (mode : BitVec 16)
  /-- `CURVE_EVAL ch, time` (R87). -/
  | curveEval (ch : Chan) (time : RawTime)
  /-- `CACHE_READ ch, k` (R93). -/
  | cacheRead (ch : Chan) (k : BitVec 32)
  /-- `SET_FREQ freq` (R103). -/
  | setFreq (freq : BitVec 16)
  /-- `SET_PORT port` (R104). -/
  | setPort (port : BitVec 32)
  /-- `SET_BAUD baud` (R105). -/
  | setBaud (baud : BitVec 32)
  /-- `CONNECT` (R106). -/
  | connect
  /-- `START` (R107). -/
  | start
  /-- `STOP` (R108). -/
  | stop
deriving DecidableEq, Repr

end Sys2Proof
end

