-- ==== Sys2Proof/Decode.lean ====
section
/-! DEFINITION. Decoding and encoding of command words (spec/30_encoding.md R56-R64), both from the same two tables: the
opcode map of R59 and the field usage of R60. -/

namespace Sys2Proof

open Sys2Proof.Machine (ByteOrder)

/-- The five fields of a command word (R56). -/
structure Fields where
  /-- `cmd[63:59]` -/
  op : BitVec 5
  /-- `cmd[58:56]` -/
  ch : BitVec 3
  /-- `cmd[55:48]` -/
  idx : BitVec 8
  /-- `cmd[47:32]` -/
  a16 : BitVec 16
  /-- `cmd[31:0]` -/
  a32 : BitVec 32
deriving DecidableEq, Repr

/-- The fields of a word (R56). -/
def Fields.ofWord (w : CmdWord) : Fields where
  op := w.extractLsb' 59 5
  ch := w.extractLsb' 56 3
  idx := w.extractLsb' 48 8
  a16 := w.extractLsb' 32 16
  a32 := w.extractLsb' 0 32

/-- The word of five fields, `OP` highest (R56): "no bit is left over". -/
def commandWord (op : BitVec 5) (ch : BitVec 3) (idx : BitVec 8) (a16 : BitVec 16) (a32 : BitVec 32) : CmdWord :=
  op ++ ch ++ idx ++ a16 ++ a32

/-- The word of a record of fields (R56). -/
def Fields.toWord (f : Fields) : CmdWord := commandWord f.op f.ch f.idx f.a16 f.a32

/-- A channel as the 3-bit `CH` field (R57). -/
def chanBits3 (ch : Chan) : BitVec 3 := BitVec.ofNat 3 ch.val

/-- The `CH` field as a channel: "Every value is a legal channel" (R57). -/
def chanOfBits (b : BitVec 3) : Chan := b.toFin

/-- The opcodes of R59, one per row. -/
inductive Opcode where
  | nop
  | regRead
  | evtEn
  | evtClear
  | crcClear
  | crcFeed
  | wpAdd
  | wpUpdate
  | wpRemove
  | wpRead
  | wpCount
  | setMode
  | curveEval
  | cacheRead
  | setFreq
  | setPort
  | setBaud
  | connect
  | start
  | stop
deriving DecidableEq, Repr

/-- The `OP` value of a row (R59). -/
def Opcode.code : Opcode → BitVec 5
  | .nop => 0x00
  | .regRead => 0x01
  | .evtEn => 0x02
  | .evtClear => 0x03
  | .crcClear => 0x04
  | .crcFeed => 0x05
  | .wpAdd => 0x08
  | .wpUpdate => 0x09
  | .wpRemove => 0x0A
  | .wpRead => 0x0B
  | .wpCount => 0x0C
  | .setMode => 0x10
  | .curveEval => 0x11
  | .cacheRead => 0x12
  | .setFreq => 0x18
  | .setPort => 0x19
  | .setBaud => 0x1A
  | .connect => 0x1B
  | .start => 0x1C
  | .stop => 0x1D

/-- The must-be-zero mask of a row (R60). -/
def Opcode.mbz : Opcode → CmdWord
  | .nop => 0x07FFFFFFFFFFFFFF
  | .regRead => 0x0700FFFFFFFFFFFF
  | .evtEn => 0x07FF0000FFFFFFFF
  | .evtClear => 0x07FF0000FFFFFFFF
  | .crcClear => 0x07FFFFFFFFFFFFFF
  | .crcFeed => 0x07FF0000FFFFFFFF
  | .wpAdd => 0x00FF000000000000
  | .wpUpdate => 0x0000000000000000
  | .wpRemove => 0x0000FFFFFFFFFFFF
  | .wpRead => 0x0000FFFFFFFFFFFF
  | .wpCount => 0x00FFFFFFFFFFFFFF
  | .setMode => 0x07FF0000FFFFFFFF
  | .curveEval => 0x00FFFFFF00000000
  | .cacheRead => 0x00FFFFFF00000000
  | .setFreq => 0x07FF0000FFFFFFFF
  | .setPort => 0x07FFFFFF00000000
  | .setBaud => 0x07FFFFFF00000000
  | .connect => 0x07FFFFFFFFFFFFFF
  | .start => 0x07FFFFFFFFFFFFFF
  | .stop => 0x07FFFFFFFFFFFFFF

/-- The rows of R59, in the table's order. -/
def Opcode.all : List Opcode :=
  [.nop, .regRead, .evtEn, .evtClear, .crcClear, .crcFeed, .wpAdd, .wpUpdate, .wpRemove, .wpRead, .wpCount,
   .setMode, .curveEval, .cacheRead, .setFreq, .setPort, .setBaud, .connect, .start, .stop]

/-- The row whose `OP` value is `b`; none for the reserved opcodes of R64. -/
def Opcode.ofBits (b : BitVec 5) : Option Opcode := Opcode.all.find? (fun o => o.code == b)

/-- "The decoder mask of a row is `F800000000000000 | must-be-zero mask`" (R60). -/
def Opcode.rowMask (o : Opcode) : CmdWord := 0xF800000000000000 ||| o.mbz

/-- "The match value of a row is `OP << 59`" (R59). -/
def Opcode.rowMatch (o : Opcode) : CmdWord := o.code.setWidth 64 <<< 59

/-- The command of a row, its operands read from the fields R60 names. -/
def Opcode.build (o : Opcode) (f : Fields) : Instr :=
  match o with
  | .nop => .nop
  | .regRead => .regRead f.idx
  | .evtEn => .evtEn f.a16
  | .evtClear => .evtClear f.a16
  | .crcClear => .crcClear
  | .crcFeed => .crcFeed f.a16
  | .wpAdd => .wpAdd (chanOfBits f.ch) f.a32 f.a16
  | .wpUpdate => .wpUpdate (chanOfBits f.ch) f.idx f.a32 f.a16
  | .wpRemove => .wpRemove (chanOfBits f.ch) f.idx
  | .wpRead => .wpRead (chanOfBits f.ch) f.idx
  | .wpCount => .wpCount (chanOfBits f.ch)
  | .setMode => .setMode f.a16
  | .curveEval => .curveEval (chanOfBits f.ch) f.a32
  | .cacheRead => .cacheRead (chanOfBits f.ch) f.a32
  | .setFreq => .setFreq f.a16
  | .setPort => .setPort f.a32
  | .setBaud => .setBaud f.a32
  | .connect => .connect
  | .start => .start
  | .stop => .stop

/-- Why a word fails decoding (R61): both give IllegalCommand. -/
inductive DecodeError where
  /-- "reserved opcode" -/
  | reservedOpcode
  /-- "an unused field is not zero" -/
  | unusedField
deriving DecidableEq, Repr

/-- `decode` (R61), total on every 64-bit word. -/
def decode (w : CmdWord) : Except DecodeError Instr :=
  match Opcode.ofBits (Fields.ofWord w).op with
  | none => .error .reservedOpcode
  | some o => if w &&& o.mbz = 0 then .ok (o.build (Fields.ofWord w)) else .error .unusedField

/-- The row of a command. -/
def Instr.opcode : Instr → Opcode
  | .nop => .nop
  | .regRead _ => .regRead
  | .evtEn _ => .evtEn
  | .evtClear _ => .evtClear
  | .crcClear => .crcClear
  | .crcFeed _ => .crcFeed
  | .wpAdd _ _ _ => .wpAdd
  | .wpUpdate _ _ _ _ => .wpUpdate
  | .wpRemove _ _ => .wpRemove
  | .wpRead _ _ => .wpRead
  | .wpCount _ => .wpCount
  | .setMode _ => .setMode
  | .curveEval _ _ => .curveEval
  | .cacheRead _ _ => .cacheRead
  | .setFreq _ => .setFreq
  | .setPort _ => .setPort
  | .setBaud _ => .setBaud
  | .connect => .connect
  | .start => .start
  | .stop => .stop

/-- The fields of a command: its opcode, its operands in the fields R60 names, zero in the unused ones. -/
def Instr.fields (i : Instr) : Fields :=
  let op := i.opcode.code
  match i with
  | .regRead reg => { op, ch := 0, idx := reg, a16 := 0, a32 := 0 }
  | .evtEn v | .evtClear v | .crcFeed v | .setMode v | .setFreq v => { op, ch := 0, idx := 0, a16 := v, a32 := 0 }
  | .wpAdd ch time pwm => { op, ch := chanBits3 ch, idx := 0, a16 := pwm, a32 := time }
  | .wpUpdate ch idx time pwm => { op, ch := chanBits3 ch, idx, a16 := pwm, a32 := time }
  | .wpRemove ch idx | .wpRead ch idx => { op, ch := chanBits3 ch, idx, a16 := 0, a32 := 0 }
  | .wpCount ch => { op, ch := chanBits3 ch, idx := 0, a16 := 0, a32 := 0 }
  | .curveEval ch v | .cacheRead ch v => { op, ch := chanBits3 ch, idx := 0, a16 := 0, a32 := v }
  | .setPort v | .setBaud v => { op, ch := 0, idx := 0, a16 := 0, a32 := v }
  | .nop | .crcClear | .connect | .start | .stop => { op, ch := 0, idx := 0, a16 := 0, a32 := 0 }

/-- The command word of a command (R56, R59, R60). -/
def encode (i : Instr) : CmdWord := i.fields.toWord

/-- The command word that eight bus bytes carry in a given byte order, the first byte at the lowest address (R43: the
order is the platform's `HOST_BUS_ORDER`; log 15). "Every command has the same length, 64 bits" (R63), so any other number
of bytes is no command. -/
def wordOfBytes (order : ByteOrder) (bs : List Byte) : Option CmdWord :=
  if h : bs.length = 8 then
    let byte (i : Fin 8) : Byte := bs[(order i).val]
    some (byte 7 ++ byte 6 ++ byte 5 ++ byte 4 ++ byte 3 ++ byte 2 ++ byte 1 ++ byte 0)
  else none

/-- The eight bus bytes of a 64-bit word in a given byte order (R43; log 15). -/
def bytesOfWord (order : ByteOrder) (w : CmdWord) : List Byte :=
  List.ofFn fun place : Fin 8 => w.extractLsb' (8 * (order.symm place).val) 8

/-- The command an opcode-table word of `nbits` bits decodes to; the bits above `nbits` are zero. A command is one
64-bit word, so the table's numbering is the word's own. -/
def decodeTableWord (nbits w : Nat) : Option Instr :=
  match decode (BitVec.ofNat 64 (w % 2 ^ nbits)) with
  | .ok i => some i
  | .error _ => none

end Sys2Proof
end

