-- ==== Sys2Proof/Config.lean ====
section
/-! DEFINITION. What an implementation fixes (spec/00_scope.md R10, R11) and the free values. A free value is an opaque
constant without a body: nothing can be proved of it but what holds of every value. -/

namespace Sys2Proof

open Sys2Proof.Machine

/-- `NUMERIC_MODEL` (R11, spec/42_interpolator.md R83): exact rational arithmetic, the value R11 takes; or, for an instance
that overrides it, a function from the waypoints, the mode and the time to the curve value. -/
inductive NumericModel where
  | exact
  | finite (f : List Waypoint → Mode → ℚ → ℚ)

/-- `SAMPLE_ROUND` (R11, R84): truncation, the value R11 takes; or, for an instance that overrides it, another
conversion. -/
inductive SampleRound where
  | truncate
  | other (f : ℚ → Int)

/-- The parameters of R11 that a rule reads. "Each takes the value below unless the model overrides it as a named
argument": every operation that reads one takes a `Params`, and `exec` passes `Config.params`. -/
structure Params where
  /-- `WP_DEPTH`, waypoints per channel. -/
  wpDepth : Nat := 256
  /-- `CACHE_DEPTH`, samples per channel. -/
  cacheDepth : Nat := 65536
  /-- `NUMERIC_MODEL`. -/
  numeric : NumericModel := .exact
  /-- `SAMPLE_ROUND`. -/
  sampleRound : SampleRound := .truncate

/-- The parameters of this model: the values R11 itself states (log 4). -/
def Config.params : Params := {}

/-- `PWM_MIN`, `PWM_MAX` and `IDLE_PWM` (R10). -/
def Config.pwmMin : Int := 1100
def Config.pwmMax : Int := 1900
def Config.idlePwm : Int := 1500

/-- `HEADER`, `TRAILER` and `START_SEQ` (R10). -/
def Config.header : List Byte := [0xAA, 0x00, 0x00]
def Config.trailer : Byte := 0xEE
def Config.startSeq : List Byte := [0xFF, 0x00, 0x01, 0x00, 0x00, 0x52, 0xEE]

/-- `CRC_POLY` and `CRC_INIT` (R10). -/
def Config.crcPoly : Byte := 0x07
def Config.crcInit : Byte := 0x00

/-- `HOST_BUS_ORDER`, OPEN (R11, R43): no rule of the block depends on it. Free value (log 9;
the arrangements it ranges over: log 15). -/
opaque Config.hostBusOrder : ByteOrder

/-- `WRITE_TIMEOUT` in milliseconds, OPEN (R11, R100): "the model never sees the value". Free value (log 9). -/
opaque Config.writeTimeout : Nat

/-- The transport's answer to an `open`, when no answer is listed in State: a draw (R100). Free value (log 3). -/
opaque Config.freeOpen : Nat → OpenOutcome

/-- The transport's answer to a `write`, when no answer is listed in State: a draw (R100). Free value (log 3). -/
opaque Config.freeWrite : Nat → WriteOutcome

/-- The agent that moves next, when no move is listed in State: the order is free (spec/20_memory.md R49).
Free value (log 1). -/
opaque Config.freeMove : Nat → Move

/-- An unspecified cache entry (spec/10_state.md R35, I8). Free value (log 7). -/
opaque Config.freeSample : Chan → Nat → Sample

end Sys2Proof
end

