-- ==== Sys2Proof/Machine/Curve.lean ====
section
/-! DEFINITION. The curve interpolator (spec/42_interpolator.md R79-R84), in exact rational arithmetic: pure functions. -/

namespace Sys2Proof.Machine

/-- A raw Q16.16 time in seconds (R58): `A32 / 65536`. -/
def seconds (t : RawTime) : ℚ := (t.toNat : ℚ) / 65536

/-- `t_i` of R79. -/
def Waypoint.sec (w : Waypoint) : ℚ := seconds w.time

/-- `v_i` of R79: the signed PWM as a rational. -/
def Waypoint.val (w : Waypoint) : ℚ := (w.pwm.toInt : ℚ)

/-- The straight line through two waypoints (R80). -/
def lineThrough (a b : Waypoint) (t : ℚ) : ℚ :=
  a.val + (b.val - a.val) * (t - a.sec) / (b.sec - a.sec)

/-- Linear mode (R80): the first segment whose end lies after `t`, else the last segment. So times before `t_1` take
segment 0 and times from `t_(n-2)` on take segment `n-2`. -/
def linearCurve : List Waypoint → ℚ → ℚ
  | [], _ => 0
  | [a], _ => a.val
  | [a, b], t => lineThrough a b t
  | a :: b :: c :: rest, t => if t < b.sec then lineThrough a b t else linearCurve (b :: c :: rest) t

/-- StepHold mode (R81), from a waypoint `a` on: the last waypoint at or before `t`, and `a` itself before the next one. -/
def holdCurve (a : Waypoint) : List Waypoint → ℚ → ℚ
  | [], _ => a.val
  | b :: rest, t => if b.sec ≤ t then holdCurve b rest t else a.val

/-- The product over `k != i` of R82, `others` being the waypoints other than `w`. -/
def lagrangeBasis (w : Waypoint) (others : List Waypoint) (t : ℚ) : ℚ :=
  (others.map (fun u => (t - u.sec) / (w.sec - u.sec))).prod

/-- Polynomial mode (R82): the sum over `i` of `v_i` times its product. -/
def polynomialCurve (l : List Waypoint) (t : ℚ) : ℚ :=
  (l.zipIdx.map (fun wi => wi.1.val * lagrangeBasis wi.1 (l.eraseIdx wi.2) t)).sum

/-- `curve(L, m, t)` under `NUMERIC_MODEL = Exact` (R79-R83): none is InsufficientData, one waypoint is a constant. -/
def exactCurve (l : List Waypoint) (m : Mode) (t : ℚ) : Option ℚ :=
  match l with
  | [] => none
  | [w] => some w.val
  | a :: b :: rest =>
    match m with
    | .linear => some (linearCurve (a :: b :: rest) t)
    | .stepHold => some (holdCurve a (b :: rest) t)
    | .polynomial => some (polynomialCurve (a :: b :: rest) t)

/-- `curve(L, m, t)` under a numeric model (R79, R83): empty channels are InsufficientData in every model. -/
def curve (n : NumericModel) (l : List Waypoint) (m : Mode) (t : ℚ) : Option ℚ :=
  match n with
  | .exact => exactCurve l m t
  | .finite f => if l.isEmpty then none else some (f l m t)

/-- `clamp(v)` (spec/00_scope.md R15). -/
def clamp (v : ℚ) : ℚ := min (Config.pwmMax : ℚ) (max (Config.pwmMin : ℚ) v)

/-- `trunc(q)` (R12): the integer part. -/
def truncate (q : ℚ) : Int := q.num.tdiv q.den

/-- `SAMPLE_ROUND` (R84). -/
def roundSample (r : SampleRound) (q : ℚ) : Int :=
  match r with
  | .truncate => truncate q
  | .other f => f q

/-- `to_sample(v)` (R84): clamp, then convert. -/
def toSample (r : SampleRound) (v : ℚ) : Sample := BitVec.ofInt 16 (roundSample r (clamp v))

/-- `clipped(v)` (R84). -/
def clipped (v : ℚ) : Bool := decide (v < (Config.pwmMin : ℚ) ∨ (Config.pwmMax : ℚ) < v)

end Sys2Proof.Machine
end

