-- ==== Sys2Proof/Machine/Operands.lean ====
section
/-! DEFINITION. The operand forms of spec/30_encoding.md R57 and R58, each with the value check of the commands that use
it (none is InvalidArgument, spec/60_exceptions.md R117). -/

namespace Sys2Proof.Machine

/-- `REG_READ`'s `IDX`: a register number of R36; 0x12-0xFF are reserved. -/
def regOperand (idx : BitVec 8) : Option Reg :=
  match idx.toNat with
  | 0x00 => some .link
  | 0x01 => some .mode
  | 0x02 => some .freq
  | 0x03 => some .interval
  | 0x04 => some .port
  | 0x05 => some .baud
  | 0x06 => some .cursor
  | 0x07 => some .stepCount
  | 0x08 => some .rmax
  | 0x09 => some .curveValid
  | 0x0A => some .cacheStale
  | 0x0B => some .events
  | 0x0C => some .eventEn
  | 0x0D => some .lastErr
  | 0x0E => some .crc
  | 0x0F => some .tickCtr
  | 0x10 => some .tickPending
  | 0x11 => some .irq
  | _ => none

/-- An event mask in `A16` (R115, R116): `A16[15:4]` must be 0. -/
def maskOperand (a16 : BitVec 16) : Option (BitVec 16) :=
  if a16.extractLsb' 4 12 = 0 then some ((a16.extractLsb' 0 4).setWidth 16) else none

/-- `CRC_FEED`'s byte in `A16` (spec/40_crc.md R70): `A16[15:8]` must be 0. -/
def byteOperand (a16 : BitVec 16) : Option Byte :=
  if a16.extractLsb' 8 8 = 0 then some (a16.extractLsb' 0 8) else none

/-- `SET_MODE`'s mode in `A16` (spec/42_interpolator.md R86): 0, 1 or 2. -/
def modeOperand (a16 : BitVec 16) : Option Mode :=
  match a16.toNat with
  | 0 => some .linear
  | 1 => some .stepHold
  | 2 => some .polynomial
  | _ => none

/-- `SET_FREQ`'s frequency in `A16` (spec/45_scheduler.md R103): not 0. -/
def freqOperand (a16 : BitVec 16) : Option (BitVec 16) := if a16 = 0 then none else some a16

/-- `sext_32(A16)` (R57): the signed PWM value, -32768..32767. -/
def pwmOperand (a16 : BitVec 16) : BitVec 32 := a16.signExtend 32

/-- The waypoint that a time operand and a PWM operand stand for: "(time Q16.16, pwm s16)" (R16, R34). The signed value
of `pwmOperand` fits 16 bits, so storing it keeps it. -/
def waypointOperand (time : RawTime) (a16 : BitVec 16) : Waypoint := ⟨time, (pwmOperand a16).setWidth 16⟩

/-- A time operand in seconds (R58). -/
abbrev timeOperand (a32 : BitVec 32) : ℚ := seconds a32

/-- A waypoint index in `IDX` (R57): unsigned 0..255. -/
abbrev indexOperand (idx : BitVec 8) : Nat := idx.toNat

/-- A sample index in `A32` (R57): unsigned. -/
abbrev sampleIndexOperand (a32 : BitVec 32) : Nat := a32.toNat

end Sys2Proof.Machine
end

