-- ==== Sys2Proof/Machine/State.lean ====
section
/-! DEFINITION. The state of the TTB block (spec/10_state.md), its interfaces, and its value after reset (R38). -/

namespace Sys2Proof.Machine

/-- The state: plain data. The first group is the block's state `S` of spec/10_state.md, the second its interfaces
(the host command port, the response channel and the output history), the third the model's own fields, from which a
step reads what the agents outside the block do (notes/assumptions 1, 3 and 5). -/
structure State where
  /-- `S.link` (R20). -/
  link : LinkState
  /-- `S.mode` (R21). -/
  mode : Mode
  /-- `S.freq`, in Hz (R22). -/
  freq : BitVec 16
  /-- `S.port` (R23). -/
  port : BitVec 32
  /-- `S.baud` (R23). -/
  baud : BitVec 32
  /-- `S.cursor` (R24). -/
  cursor : BitVec 32
  /-- `S.step_count` (R25). -/
  stepCount : BitVec 32
  /-- `S.rmax`, in seconds (R25). -/
  rmax : BitVec 32
  /-- `S.curve_valid`, bit `ch` for channel `ch` (R26). -/
  curveValid : BitVec 8
  /-- `S.cache_stale` (R27). -/
  cacheStale : Bool
  /-- `S.crc` (R28). -/
  crc : Byte
  /-- `S.events` (R29). -/
  events : BitVec 16
  /-- `S.event_en` (R30). -/
  eventEn : BitVec 16
  /-- `S.last_err` (R32). -/
  lastErr : ErrCode
  /-- `S.tick_ctr`, in milliseconds (R33). -/
  tickCtr : BitVec 16
  /-- `S.tick_pending` (R33). -/
  tickPending : Bool
  /-- `S.wp[ch]` (R34). -/
  wp : Vector (List Waypoint) 8
  /-- `S.cache[ch]` (R35): the entries that hold a specified value, from index 0 on. -/
  cache : Vector (List Sample) 8
  /-- The output history, oldest first (R39). -/
  history : List TransportEvent
  /-- The response words sent, oldest first (R62). -/
  responses : List RespWord
  /-- The waiting host command (R111), at most one (R8). -/
  cmd : Option CmdWord
  /-- The agents' coming moves, next first; when empty the next move is a free value (log 1). -/
  sched : List Move
  /-- The transport's coming answers to `open`, next first; when empty the next answer is a free value (log 3). -/
  openIn : List OpenOutcome
  /-- The transport's coming answers to `write`, next first; when empty the next answer is a free value (log 3). -/
  writeIn : List WriteOutcome
  /-- How many free values have been taken (log 3). -/
  draws : Nat
deriving DecidableEq, Repr

/-- Why the machine stops. -/
inductive Fault where
  /-- The host presents a second command word before the response to the first. Raised by `runMove` on the move
  `present`, never by a command. Safe: spec/93_implementation_defined.md I18 gives the move the treatment `stuck`, "the
  model gives the host no such move", and R137 makes waiting the host's duty. -/
  | commandOutstanding
deriving DecidableEq, Repr

/-- Why an instruction has no meaning. -/
inductive Refusal where
  /-- The instruction is not modelled. Raised by `exec` alone, for an arm without a meaning; safe. No arm raises it. -/
  | notModelled (mnemonic : String)
deriving DecidableEq, Repr

/-- The block right after reset: the values of R38; the response channel and the history empty (R135) and no command
waiting; the cache without a specified entry (log 7); the model's own fields empty (DESIGN CHOICE, log 5). -/
def State.reset : State where
  link := .closed
  mode := .linear
  freq := 20
  port := 0
  baud := 0
  cursor := 0
  stepCount := 0
  rmax := 0
  curveValid := 0x00
  cacheStale := true
  crc := 0x00
  events := 0x0000
  eventEn := 0x0000
  lastErr := .ok
  tickCtr := 0
  tickPending := false
  wp := #v[[], [], [], [], [], [], [], []]
  cache := #v[[], [], [], [], [], [], [], []]
  history := []
  responses := []
  cmd := none
  sched := []
  openIn := []
  writeIn := []
  draws := 0

end Sys2Proof.Machine
end

