-- ==== Sys2Proof/Machine/Flags.lean ====
section
/-! DEFINITION. The block's status bits (spec/10_state.md R19): there are no arithmetic flags; the status bits are
`curve_valid`, `cache_stale`, the sticky events with their interrupt line, and `tick_pending`. -/

namespace Sys2Proof.Machine

/-- A bit for each channel, bit `ch` for channel `ch` (R26). -/
def chanMask (b : Chan → Bool) : BitVec 8 :=
  BitVec.ofBool (b 7) ++ BitVec.ofBool (b 6) ++ BitVec.ofBool (b 5) ++ BitVec.ofBool (b 4) ++
    BitVec.ofBool (b 3) ++ BitVec.ofBool (b 2) ++ BitVec.ofBool (b 1) ++ BitVec.ofBool (b 0)

/-- `S.curve_valid[ch]` (R26). -/
abbrev State.validAt (s : State) (ch : Chan) : Bool := s.curveValid.getLsbD ch.val

/-- `S.events[n] <- 1` (R29). -/
def State.raise (s : State) (e : Event) : State := { s with events := s.events ||| e.mask }

/-- The `irq` output (R31): a level that "holds no state of its own". -/
def State.irq (s : State) : Bool := s.events &&& s.eventEn != 0

/-- `INTERVAL(f)` (R22), in milliseconds. -/
abbrev interval (f : BitVec 16) : Nat := max 1 (1000 / f.toNat)

/-- `S.cache_stale <- 1` (R27). -/
def State.markStale (s : State) : State := { s with cacheStale := true }

/-- When the scheduler's step is enabled (spec/45_scheduler.md R110, R111): streaming, a tick pending, no host command
waiting. -/
def State.tickEnabled (s : State) : Bool := s.link == .openStreaming && s.tickPending && s.cmd.isNone

end Sys2Proof.Machine
end

