-- ==== Sys2Proof/Machine/Crc.lean ====
section
/-! DEFINITION. The CRC-8 function (spec/40_crc.md R67, R68). -/

namespace Sys2Proof.Machine

/-- One of the eight iterations of R67: "if the top bit of the register is set, shift left and XOR with the polynomial,
else shift left; mask to 8 bits". -/
def crcShift (x : Byte) : Byte :=
  if x.msb then (x <<< 1) ^^^ Config.crcPoly else x <<< 1

/-- `crc8_step(r, b)` (R67). -/
def crc8Step (r b : Byte) : Byte :=
  crcShift (crcShift (crcShift (crcShift (crcShift (crcShift (crcShift (crcShift (r ^^^ b))))))))

/-- `crc8(s)` (R68): the bytes in order, from the initial register 0x00. -/
def crc8 (s : List Byte) : Byte := s.foldl crc8Step Config.crcInit

end Sys2Proof.Machine
end

