-- ==== Sys2Proof/Machine/Frame.lean ====
section
/-! DEFINITION. The packet framer (spec/44_framer.md R94-R97): pure functions. -/

namespace Sys2Proof.Machine

/-- `clamp` of R15 on an integer. -/
def clampInt (v : Int) : Int := min Config.pwmMax (max Config.pwmMin v)

/-- `le16(x)` (R13): low byte first. -/
def le16 (x : BitVec 16) : List Byte := [x.extractLsb' 0 8, x.extractLsb' 8 8]

/-- A table over the eight channels, channel 0 first. -/
def perChan {α : Type} (f : Chan → α) : Vector α 8 :=
  #v[f 0, f 1, f 2, f 3, f 4, f 5, f 6, f 7]

/-- The 16 payload bytes: each value clamped, low byte first, channel 0 first (R94, R42). -/
def payload (v : Vector Int 8) : List Byte :=
  v.toList.flatMap (fun x => le16 (BitVec.ofInt 16 (clampInt x)))

/-- `frame(v)` (R94): header, payload, CRC-8 of both, trailer. -/
def frame (v : Vector Int 8) : List Byte :=
  Config.header ++ payload v ++ [crc8 (Config.header ++ payload v)] ++ [Config.trailer]

/-- The idle frame (R96): every channel at `IDLE_PWM`. -/
def idleFrame : List Byte := frame (perChan (fun _ => Config.idlePwm))

end Sys2Proof.Machine
end

