-- ==== Sys2Proof/Machine/Ops.lean ====
section
/-! DEFINITION. The shared operations on the state: responding and failing (spec/00_scope.md R14, this block's whole
error entry), the transport requests (spec/45_scheduler.md R100), the two stop procedures (R102), and the accesses to
the indexed stores (spec/20_memory.md R41). -/

namespace Sys2Proof.Machine

/-- The response word `{e[7:0], d[55:0]}` (spec/30_encoding.md R62). -/
def respWord (e : ErrCode) (d : Data) : RespWord := e.code ++ d

/-- `respond(e, d)` (R14): the command's one response word. -/
def State.respond (s : State) (e : ErrCode) (d : Data) : State :=
  { s with responses := s.responses ++ [respWord e d] }

/-- `fail(e)` (R14): `S.last_err <- e; respond(e, 0)`. The shared error entry of every command. -/
def State.fail (s : State) (e : ErrCode) : State := { s with lastErr := e }.respond e 0

/-- A transport request with its outcome goes to the output history (R39, R53). -/
def State.record (s : State) (e : TransportEvent) : State := { s with history := s.history ++ [e] }

/-- The transport's answer to an `open` (R100): the next one listed, else a free value. -/
def State.nextOpen (s : State) : OpenOutcome := s.openIn.headD (Config.freeOpen s.draws)

/-- The state with the answer to an `open` taken. -/
def State.dropOpen (s : State) : State :=
  { s with openIn := s.openIn.tail, draws := if s.openIn.isEmpty then s.draws + 1 else s.draws }

/-- The transport's answer to a `write` (R100): the next one listed, else a free value. -/
def State.nextWrite (s : State) : WriteOutcome := s.writeIn.headD (Config.freeWrite s.draws)

/-- The state with the answer to a `write` taken. -/
def State.dropWrite (s : State) : State :=
  { s with writeIn := s.writeIn.tail, draws := if s.writeIn.isEmpty then s.draws + 1 else s.draws }

/-- `TransportOpen(S.port, S.baud)` (R100). -/
def State.transportOpen (s : State) : OpenOutcome × State :=
  (s.nextOpen, s.dropOpen.record (.opened s.port s.baud s.nextOpen))

/-- `TransportWrite(bytes)` (R100). -/
def State.transportWrite (s : State) (bytes : List Byte) : WriteOutcome × State :=
  (s.nextWrite, s.dropWrite.record (.wrote bytes s.nextWrite))

/-- `TransportClose()` (R100). -/
def State.transportClose (s : State) : State := s.record .closed

/-- `code(w)` (R100); a successful write has no error. -/
def WriteOutcome.errCode : WriteOutcome → ErrCode
  | .ok => .ok
  | .notOpen => .linkNotOpen
  | .failed _ => .writeFailed

/-- `stop_sequence()` (R102): cancel the tick, write the idle frame, close, Closed; it returns the write's outcome. -/
def State.stopSequence (s : State) : WriteOutcome × State :=
  let w := { s with tickPending := false, tickCtr := 0 }.transportWrite idleFrame
  (w.1, { w.2.transportClose with link := .closed })

/-- `forced_stop(e)` (R102): the stop sequence, its outcome ignored; then `last_err` and FORCED_STOP. The shared error
entry of a failed start write and of a failed frame write. -/
def State.forcedStop (s : State) (e : ErrCode) : State :=
  { s.stopSequence.2 with lastErr := e }.raise .forcedStop

/-- `S.wp[ch] <- L` with `S.cache_stale <- 1` (R73). -/
def State.setWp (s : State) (ch : Chan) (l : List Waypoint) : State :=
  { s with wp := s.wp.set ch.val l ch.isLt }.markStale

/-- `S.wp[ch]` (spec/10_state.md R34). -/
def State.wpAt (s : State) (ch : Chan) : List Waypoint := s.wp[ch]

/-- `S.cache[ch][k]` (spec/10_state.md R35): an entry without a specified value reads as a free value. -/
def State.cacheAt (s : State) (ch : Chan) (k : Nat) : Sample :=
  match s.cache[ch][k]? with
  | some v => v
  | none => Config.freeSample ch k

/-- Reset as a step (spec/70_reset_and_hazards.md R133-R135): every field of the block and of its interfaces at its reset
value; what the agents outside will do is not the block's to reset. -/
def State.resetStep (s : State) : State :=
  { State.reset with sched := s.sched, openIn := s.openIn, writeIn := s.writeIn, draws := s.draws }

end Sys2Proof.Machine
end

