-- ==== Sys2Proof/Machine/Control.lean ====
section
/-! DEFINITION. The control and status commands (spec/46_control.md): NOP, REG_READ, EVT_EN, EVT_CLEAR. -/

namespace Sys2Proof.Machine

/-- NOP (R113): `respond(OK, 0)`. -/
def execNop (s : State) : Host.Outcome State Fault Refusal := .next (s.respond .ok 0)

/-- A register's value, zero-extended to the 56-bit response data (R36, R114). -/
def readReg (s : State) : Reg → Data
  | .link => s.link.code.setWidth 56
  | .mode => s.mode.code.setWidth 56
  | .freq => s.freq.setWidth 56
  | .interval => BitVec.ofNat 56 (interval s.freq)
  | .port => s.port.setWidth 56
  | .baud => s.baud.setWidth 56
  | .cursor => s.cursor.setWidth 56
  | .stepCount => s.stepCount.setWidth 56
  | .rmax => s.rmax.setWidth 56
  | .curveValid => s.curveValid.setWidth 56
  | .cacheStale => (BitVec.ofBool s.cacheStale).setWidth 56
  | .events => s.events.setWidth 56
  | .eventEn => s.eventEn.setWidth 56
  | .lastErr => s.lastErr.code.setWidth 56
  | .crc => s.crc.setWidth 56
  | .tickCtr => s.tickCtr.setWidth 56
  | .tickPending => (BitVec.ofBool s.tickPending).setWidth 56
  | .irq => (BitVec.ofBool s.irq).setWidth 56

/-- REG_READ (R114): a reserved register number fails with InvalidArgument. -/
def execRegRead (reg : BitVec 8) (s : State) : Host.Outcome State Fault Refusal :=
  match regOperand reg with
  | none => .next (s.fail .invalidArgument)
  | some r => .next (s.respond .ok (readReg s r))

/-- EVT_EN (R115). -/
def execEvtEn (mask : BitVec 16) (s : State) : Host.Outcome State Fault Refusal :=
  match maskOperand mask with
  | none => .next (s.fail .invalidArgument)
  | some m => .next ({ s with eventEn := m }.respond .ok 0)

/-- EVT_CLEAR (R116): write 1 to clear; it responds with the bits still set. -/
def execEvtClear (mask : BitVec 16) (s : State) : Host.Outcome State Fault Refusal :=
  match maskOperand mask with
  | none => .next (s.fail .invalidArgument)
  | some m => .next ({ s with events := s.events &&& ~~~m }.respond .ok ((s.events &&& ~~~m).setWidth 56))

end Sys2Proof.Machine
end

