-- ==== Sys2Proof/Machine/CrcCommands.lean ====
section
/-! DEFINITION. The commands of the host-visible CRC register (spec/40_crc.md R69, R70). -/

namespace Sys2Proof.Machine

/-- CRC_CLEAR (R69). -/
def execCrcClear (s : State) : Host.Outcome State Fault Refusal :=
  .next ({ s with crc := Config.crcInit }.respond .ok 0)

/-- CRC_FEED (R70): it responds with the new register value. -/
def execCrcFeed (byte : BitVec 16) (s : State) : Host.Outcome State Fault Refusal :=
  match byteOperand byte with
  | none => .next (s.fail .invalidArgument)
  | some b => .next ({ s with crc := crc8Step s.crc b }.respond .ok ((crc8Step s.crc b).setWidth 56))

end Sys2Proof.Machine
end

