-- ==== Sys2Proof/Machine/CurveCommands.lean ====
section
/-! DEFINITION. The commands of the curve interpolator (spec/42_interpolator.md R86, R87). -/

namespace Sys2Proof.Machine

/-- SET_MODE (R86). -/
def execSetMode (mode : BitVec 16) (s : State) : Host.Outcome State Fault Refusal :=
  match modeOperand mode with
  | none => .next (s.fail .invalidArgument)
  | some m => .next ({ s with mode := m }.markStale.respond .ok 0)

/-- The response data of CURVE_EVAL (R87): `{zeros(39), clipped(v), to_sample(v)[15:0]}`. -/
def curveData (r : SampleRound) (v : ℚ) : Data := (0 : BitVec 39) ++ BitVec.ofBool (clipped v) ++ toSample r v

/-- CURVE_EVAL under the parameters `p` (R87): the live waypoints and mode, not the cache. -/
def curveEvalOp (p : Params) (ch : Chan) (t : ℚ) (s : State) : State :=
  match curve p.numeric (s.wpAt ch) s.mode t with
  | none => s.fail .insufficientData
  | some v => s.respond .ok (curveData p.sampleRound v)

/-- CURVE_EVAL (R87). -/
def execCurveEval (ch : Chan) (time : RawTime) (s : State) : Host.Outcome State Fault Refusal :=
  .next (curveEvalOp Config.params ch (timeOperand time) s)

end Sys2Proof.Machine
end

