-- ==== Sys2Proof/Machine/Sampler.lean ====
section
/-! DEFINITION. The sampler and cache controller (spec/43_sampler_cache.md): step count, rebuild check, rebuild, and
the command CACHE_READ. -/

namespace Sys2Proof.Machine

/-- `M` (R88): the largest raw waypoint time over every non-empty channel, 0 when all are empty. -/
def maxRawTime (s : State) : Nat :=
  (s.wp.toList.flatMap (fun l => l.map (fun w => w.time.toNat))).foldl max 0

/-- `R` (R89): `M / 65536` rounded half to even, from `q = M[31:16]` and `r = M[15:0]`. -/
def roundHalfEven (m : Nat) : Nat :=
  let q := m / 65536
  let r := m % 65536
  if r < 0x8000 then q else if 0x8000 < r then q + 1 else q + q % 2

/-- `R = round(globalMaxTime)` in whole seconds (R89). -/
def roundedMaxTime (s : State) : Nat := roundHalfEven (maxRawTime s)

/-- `step_count_for(S) = R * f + 1` (R90). -/
def stepCountFor (s : State) : Nat := roundedMaxTime s * s.freq.toNat + 1

/-- Whether every channel is empty (R90). -/
def allEmpty (s : State) : Bool := s.wp.toList.all List.isEmpty

/-- `rebuild_check(S)` (R90): the error it raises, if any. -/
def rebuildCheck (p : Params) (s : State) : Option ErrCode :=
  if allEmpty s then some .noWaveformData
  else if p.cacheDepth < stepCountFor s then some .cacheOverflow
  else none

/-- `t_k = k / f` (R91). -/
def sampleTime (f : BitVec 16) (k : Nat) : ℚ := (k : ℚ) / (f.toNat : ℚ)

/-- The sample of a channel at a time (R92). The sampler skips empty channels, so the `none` case does not arise
(R85); it yields no sample. -/
def sampleAt (p : Params) (l : List Waypoint) (m : Mode) (t : ℚ) : Option Sample :=
  (curve p.numeric l m t).map (toSample p.sampleRound)

/-- The samples of one channel (R92): none for an empty channel, else those at `t_0 .. t_(n-1)`. -/
def sampleChannel (p : Params) (l : List Waypoint) (m : Mode) (f : BitVec 16) (n : Nat) : List Sample :=
  (List.range n).filterMap (fun k => sampleAt p l m (sampleTime f k))

/-- Whether some channel is empty (R92, `any_empty`). -/
def anyEmpty (s : State) : Bool := s.wp.toList.any List.isEmpty

/-- `rebuild(S)` (R92): the whole cache, `curve_valid`, `step_count`, `rmax`, `cache_stale` and, if a channel is empty,
EMPTY_CHANNEL. -/
def rebuild (p : Params) (s : State) : State :=
  let s' := { s with
    cache := perChan (fun ch => sampleChannel p (s.wpAt ch) s.mode s.freq (stepCountFor s))
    curveValid := chanMask (fun ch => !(s.wpAt ch).isEmpty)
    stepCount := BitVec.ofNat 32 (stepCountFor s)
    rmax := BitVec.ofNat 32 (roundedMaxTime s)
    cacheStale := false }
  if anyEmpty s then s'.raise .emptyChannel else s'

/-- CACHE_READ (R93): "The invalid-channel check comes first". -/
def execCacheRead (ch : Chan) (k : BitVec 32) (s : State) : Host.Outcome State Fault Refusal :=
  if s.validAt ch = false then .next (s.fail .insufficientData)
  else if s.stepCount.toNat ≤ sampleIndexOperand k then .next (s.fail .indexOutOfRange)
  else .next (s.respond .ok ((s.cacheAt ch (sampleIndexOperand k)).setWidth 56))

end Sys2Proof.Machine
end

