-- ==== Sys2Proof/Machine/Scheduler.lean ====
section
/-! DEFINITION. The scheduler and link state machine (spec/45_scheduler.md): SET_FREQ, SET_PORT, SET_BAUD, CONNECT,
START, STOP, the timebase strobe and the tick. -/

namespace Sys2Proof.Machine

/-- SET_FREQ (R103): while streaming the new interval counts from now. -/
def execSetFreq (freq : BitVec 16) (s : State) : Host.Outcome State Fault Refusal :=
  match freqOperand freq with
  | none => .next (s.fail .invalidArgument)
  | some f =>
    .next ({ s with freq := f, tickCtr := if s.link = LinkState.openStreaming then 0 else s.tickCtr }.markStale.respond .ok 0)

/-- SET_PORT (R104). -/
def execSetPort (port : BitVec 32) (s : State) : Host.Outcome State Fault Refusal :=
  .next ({ s with port := port }.respond .ok 0)

/-- SET_BAUD (R105). -/
def execSetBaud (baud : BitVec 32) (s : State) : Host.Outcome State Fault Refusal :=
  .next ({ s with baud := baud }.respond .ok 0)

/-- `TransportOpen` and, on `Ok`, `S.link <- 1` (R106, R107). -/
def State.openLink (s : State) : OpenOutcome × State :=
  match s.transportOpen.1 with
  | .fail => (.fail, s.transportOpen.2)
  | .ok => (.ok, { s.transportOpen.2 with link := .openIdle })

/-- CONNECT's effect (R106). -/
def connectOp (s : State) : State :=
  if s.link = .closed then
    match s.openLink.1 with
    | .fail => s.openLink.2.fail .linkOpenFailed
    | .ok => s.openLink.2.respond .ok 0
  else s.fail .invalidState

/-- CONNECT (R106). -/
def execConnect (s : State) : Host.Outcome State Fault Refusal := .next (connectOp s)

/-- START from the rebuild on, the link being open (R107): rebuild, start sequence, then streaming or a forced stop. -/
def beginStream (p : Params) (s : State) : State :=
  let w := (rebuild p s).transportWrite Config.startSeq
  match w.1 with
  | .ok =>
    { w.2 with cursor := 0, tickCtr := 0, tickPending := false, link := .openStreaming }.respond .ok 0
  | e => (w.2.forcedStop e.errCode).respond e.errCode 0

/-- START's effect under the parameters `p` (R107), its checks in the order of spec/60_exceptions.md R122. -/
def startOp (p : Params) (s : State) : State :=
  if s.link = .openStreaming then s.fail .invalidState
  else
    match rebuildCheck p s with
    | some e => s.fail e
    | none =>
      if s.link = .closed then
        match s.openLink.1 with
        | .fail => s.openLink.2.fail .linkOpenFailed
        | .ok => beginStream p s.openLink.2
      else beginStream p s

/-- START (R107). -/
def execStart (s : State) : Host.Outcome State Fault Refusal := .next (startOp Config.params s)

/-- STOP's effect (R108): a no-op in Closed; else the stop sequence, its write error reported. -/
def stopOp (s : State) : State :=
  if s.link = .closed then s.respond .ok 0
  else
    match s.stopSequence.1 with
    | .ok => s.stopSequence.2.respond .ok 0
    | e => { s.stopSequence.2 with lastErr := e.errCode }.respond e.errCode 0

/-- STOP (R108). -/
def execStop (s : State) : Host.Outcome State Fault Refusal := .next (stopOp s)

/-- The timebase strobe (R109). -/
def State.strobe (s : State) : State :=
  if s.link = .openStreaming then
    if interval s.freq ≤ (s.tickCtr + 1).toNat then
      if s.tickPending then { s with tickCtr := 0 }.raise .tickOverrun
      else { s with tickCtr := 0, tickPending := true }
    else { s with tickCtr := s.tickCtr + 1 }
  else s

/-- `v[ch]` of the tick (R110): the cached sample at the cursor, or `IDLE_PWM` for a channel without a curve and at
`cursor = step_count`. -/
def State.tickValue (s : State) (ch : Chan) : Int :=
  if s.validAt ch ∧ s.cursor < s.stepCount then ((s.cacheAt ch s.cursor.toNat).toNat : Int) else Config.idlePwm

/-- A tick with `cursor <= step_count` (R110): write the frame; the cursor advances only after a successful write. -/
def State.tickFrame (s : State) : State :=
  let w := s.transportWrite (frame (perChan s.tickValue))
  match w.1 with
  | .ok => { w.2 with cursor := w.2.cursor + 1 }
  | e => w.2.forcedStop e.errCode

/-- A tick with `cursor > step_count` (R110): the automatic end-of-sequence stop. -/
def State.tickEnd (s : State) : State :=
  match s.stopSequence.1 with
  | .ok => s.stopSequence.2.raise .runDone
  | e => { s.stopSequence.2.raise .runDone with lastErr := e.errCode }

/-- The tick (R110), when it is enabled. -/
def State.tick (s : State) : State :=
  if s.cursor ≤ s.stepCount then { s with tickPending := false }.tickFrame
  else { s with tickPending := false }.tickEnd

end Sys2Proof.Machine
end

