-- ==== Sys2Proof/Machine/WaypointCommands.lean ====
section
/-! DEFINITION. The waypoint memory (spec/41_waypoint.md): insertion and the commands WP_ADD, WP_UPDATE, WP_REMOVE,
WP_READ, WP_COUNT. -/

namespace Sys2Proof.Machine

/-- The index of the waypoint with time exactly `t`; "at most one such i, by the invariant" (R72). -/
def findTime (l : List Waypoint) (t : RawTime) : Option Nat := l.findIdx? (fun w => w.time == t)

/-- The number of waypoints before `t` (R72). -/
def countBefore (l : List Waypoint) (t : RawTime) : Nat := l.countP (fun w => decide (w.time < t))

/-- `wp_insert(L, t, p)` (R72), `w` being `(t, p)`: the new sequence and the index at which `w` stands. -/
def wpInsert (l : List Waypoint) (w : Waypoint) : List Waypoint × Nat :=
  match findTime l w.time with
  | some i => (l.set i w, i)
  | none => (l.take (countBefore l w.time) ++ w :: l.drop (countBefore l w.time), countBefore l w.time)

/-- An element index in the response data. -/
def indexData (n : Nat) : Data := BitVec.ofNat 56 n

/-- WP_ADD under the parameters `p` (R74): StoreFull only for a new time in a full channel. -/
def wpAddOp (p : Params) (ch : Chan) (w : Waypoint) (s : State) : State :=
  if findTime (s.wpAt ch) w.time = none ∧ p.wpDepth ≤ (s.wpAt ch).length then s.fail .storeFull
  else (s.setWp ch (wpInsert (s.wpAt ch) w).1).respond .ok (indexData (wpInsert (s.wpAt ch) w).2)

/-- WP_ADD (R74). -/
def execWpAdd (ch : Chan) (time : RawTime) (pwm : RawPwm) (s : State) : Host.Outcome State Fault Refusal :=
  .next (wpAddOp Config.params ch (waypointOperand time pwm) s)

/-- WP_UPDATE (R75): the entry at the index is taken out and the new waypoint inserted. -/
def execWpUpdate (ch : Chan) (idx : BitVec 8) (time : RawTime) (pwm : RawPwm) (s : State) :
    Host.Outcome State Fault Refusal :=
  if (s.wpAt ch).length ≤ indexOperand idx then .next (s.fail .indexOutOfRange)
  else
    let r := wpInsert ((s.wpAt ch).eraseIdx (indexOperand idx)) (waypointOperand time pwm)
    .next ((s.setWp ch r.1).respond .ok (indexData r.2))

/-- WP_REMOVE (R76). -/
def execWpRemove (ch : Chan) (idx : BitVec 8) (s : State) : Host.Outcome State Fault Refusal :=
  if (s.wpAt ch).length ≤ indexOperand idx then .next (s.fail .indexOutOfRange)
  else .next ((s.setWp ch ((s.wpAt ch).eraseIdx (indexOperand idx))).respond .ok 0)

/-- The response data of a waypoint (R77): `DATA[47:32]` the PWM bit pattern, `DATA[31:0]` the time. -/
def waypointData (w : Waypoint) : Data := (0 : BitVec 8) ++ w.pwm ++ w.time

/-- WP_READ (R77). -/
def execWpRead (ch : Chan) (idx : BitVec 8) (s : State) : Host.Outcome State Fault Refusal :=
  match (s.wpAt ch)[indexOperand idx]? with
  | none => .next (s.fail .indexOutOfRange)
  | some w => .next (s.respond .ok (waypointData w))

/-- WP_COUNT (R78). -/
def execWpCount (ch : Chan) (s : State) : Host.Outcome State Fault Refusal :=
  .next (s.respond .ok (indexData (s.wpAt ch).length))

end Sys2Proof.Machine
end

