-- ==== Sys2Proof/Machine/Dispatch.lean ====
section
/-! DEFINITION. The one dispatch from a command to its meaning (spec/30_encoding.md R59). -/

namespace Sys2Proof.Machine

def exec (i : Instr) (s : State) : Host.Outcome State Fault Refusal :=
  match i with
  -- control and status (spec/46_control.md)
  | .nop => Sys2Proof.Machine.execNop s
  | .regRead reg => Sys2Proof.Machine.execRegRead reg s
  | .evtEn mask => Sys2Proof.Machine.execEvtEn mask s
  | .evtClear mask => Sys2Proof.Machine.execEvtClear mask s
  -- CRC-8 generator (spec/40_crc.md)
  | .crcClear => Sys2Proof.Machine.execCrcClear s
  | .crcFeed byte => Sys2Proof.Machine.execCrcFeed byte s
  -- waypoint memory (spec/41_waypoint.md)
  | .wpAdd ch time pwm => Sys2Proof.Machine.execWpAdd ch time pwm s
  | .wpUpdate ch idx time pwm => Sys2Proof.Machine.execWpUpdate ch idx time pwm s
  | .wpRemove ch idx => Sys2Proof.Machine.execWpRemove ch idx s
  | .wpRead ch idx => Sys2Proof.Machine.execWpRead ch idx s
  | .wpCount ch => Sys2Proof.Machine.execWpCount ch s
  -- curve interpolator (spec/42_interpolator.md)
  | .setMode mode => Sys2Proof.Machine.execSetMode mode s
  | .curveEval ch time => Sys2Proof.Machine.execCurveEval ch time s
  -- sampler and cache (spec/43_sampler_cache.md)
  | .cacheRead ch k => Sys2Proof.Machine.execCacheRead ch k s
  -- scheduler and link (spec/45_scheduler.md)
  | .setFreq freq => Sys2Proof.Machine.execSetFreq freq s
  | .setPort port => Sys2Proof.Machine.execSetPort port s
  | .setBaud baud => Sys2Proof.Machine.execSetBaud baud s
  | .connect => Sys2Proof.Machine.execConnect s
  | .start => Sys2Proof.Machine.execStart s
  | .stop => Sys2Proof.Machine.execStop s

end Sys2Proof.Machine
end

