-- ==== Sys2Proof/Machine/Agents.lean ====
section
/-! DEFINITION. The agents' moves (spec/00_scope.md R8; spec/20_memory.md R48, R49): which agent moves next, and what
its move does to the block. -/

namespace Sys2Proof.Machine

/-- The block performs a command word (spec/30_encoding.md R61): decode, then the rule of R59; a word that fails
decoding fails with IllegalCommand. -/
def performCommand (w : CmdWord) (s : State) : Host.Outcome State Fault Refusal :=
  match decode w with
  | .ok i => exec i s
  | .error _ => .next (s.fail .illegalCommand)

/-- The next move and the state without it: the first of `sched`, else a free value (R49; log 1). -/
def State.takeMove (s : State) : Move × State :=
  match s.sched with
  | m :: ms => (m, { s with sched := ms })
  | [] => (Config.freeMove s.draws, { s with draws := s.draws + 1 })

/-- One move. An agent that is named but has nothing to do (no waiting command; a tick that is not enabled, R111) leaves
the block as it is (log 1). The host presents a command only when none waits (R137, I18; log 2). -/
def runMove (m : Move) (s : State) : Host.Outcome State Fault Refusal :=
  match m with
  | .present w =>
    match s.cmd with
    | none => .next { s with cmd := some w }
    | some _ => .fault .commandOutstanding
  | .command =>
    match s.cmd with
    | none => .next s
    | some w => performCommand w { s with cmd := none }
  | .strobe => .next s.strobe
  | .tick => .next (if s.tickEnabled then s.tick else s)
  | .reset => .next s.resetStep

/-- The state with a command word on the command port and the block's command step as the very next move. -/
def State.withCommand (s : State) (w : CmdWord) : State :=
  { s with cmd := some w, sched := .command :: s.sched }

end Sys2Proof.Machine
end

