-- ==== Sys2Proof/Machine/Step.lean ====
section
/-! DEFINITION. One step of the block (spec/20_memory.md R48): one atomic move of one agent. -/

namespace Sys2Proof.Machine

/-- Take the next move and run it. -/
def step (s : State) : Host.Outcome State Fault Refusal := runMove s.takeMove.1 s.takeMove.2

/-- `s` with the command word `w` of an opcode-table row of `nbits` bits (the bits above zero) waiting on the command
port, and the block's command step selected as the next move: the block fetches nothing (R18), it performs the waiting
command (log 5). -/
def State.withFetchWord (s : State) (nbits w : Nat) : State := s.withCommand (BitVec.ofNat 64 (w % 2 ^ nbits))

end Sys2Proof.Machine
end

