-- ==== Sys2Proof/Machine/Assembler.lean ====
section
/-! DEFINITION. The assembler form of commands and the pseudo-instructions and host sequences (spec/30_encoding.md R65,
R66). A line is taken after its text has been split into a mnemonic and operands (log 13). -/

namespace Sys2Proof.Machine

/-- An operand as written (R65): a number (decimal or hexadecimal, possibly with a fraction or a sign), a number with the
`q` suffix, or a name. -/
inductive AsmOperand where
  | number (v : ℚ)
  | rawTime (v : Nat)
  | name (n : String)

/-- An integer operand in `lo .. hi`. -/
def asmInt (lo hi : Int) : AsmOperand → Option Int
  | .number v => if v.den = 1 ∧ lo ≤ v.num ∧ v.num ≤ hi then some v.num else none
  | _ => none

/-- An unsigned operand of `n` bits. -/
def asmNat (n : Nat) (o : AsmOperand) : Option (BitVec n) :=
  (asmInt 0 (2 ^ n - 1) o).map (fun v => BitVec.ofNat n v.toNat)

/-- A channel operand, 0..7. -/
def asmChan (o : AsmOperand) : Option Chan := (asmInt 0 7 o).map (fun v => Fin.ofNat 8 v.toNat)

/-- A PWM operand, "signed decimal -32768..32767". -/
def asmPwm (o : AsmOperand) : Option RawPwm := (asmInt (-32768) 32767 o).map (BitVec.ofInt 16)

/-- A time operand: seconds, with `raw = seconds * 65536` refused "unless `raw` is an integer in 0..2^32-1"; or a raw
value with the `q` suffix. -/
def asmTime : AsmOperand → Option RawTime
  | .number v =>
    if (v * 65536).den = 1 ∧ 0 ≤ (v * 65536).num ∧ (v * 65536).num ≤ 2 ^ 32 - 1 then
      some (BitVec.ofNat 32 (v * 65536).num.toNat)
    else none
  | .rawTime v => if v ≤ 2 ^ 32 - 1 then some (BitVec.ofNat 32 v) else none
  | .name _ => none

/-- The register names of spec/10_state.md R36, in the order of their numbers. -/
def regNames : List String :=
  ["LINK", "MODE", "FREQ", "INTERVAL", "PORT", "BAUD", "CURSOR", "STEP_COUNT", "RMAX", "CURVE_VALID", "CACHE_STALE",
   "EVENTS", "EVENT_EN", "LAST_ERR", "CRC", "TICK_CTR", "TICK_PENDING", "IRQ"]

/-- A register operand: "number 0..255 or a register name". -/
def asmReg : AsmOperand → Option (BitVec 8)
  | .name n => (regNames.findIdx? (fun m => m == n)).map (BitVec.ofNat 8)
  | o => asmNat 8 o

/-- A mode operand: `linear` = 0, `step` = 1, `polynomial` = 2, or an integer 0..65535. -/
def asmMode : AsmOperand → Option (BitVec 16)
  | .name n => (["linear", "step", "polynomial"].findIdx? (fun m => m == n)).map (BitVec.ofNat 16)
  | o => asmNat 16 o

/-- One line, `MNEMONIC operand, operand, ...` (R65): none where the assembler refuses it. -/
def assemble (mnemonic : String) (ops : List AsmOperand) : Option Instr :=
  match ops with
  | [] =>
    if mnemonic = "NOP" then some .nop
    else if mnemonic = "CRC_CLEAR" then some .crcClear
    else if mnemonic = "CONNECT" then some .connect
    else if mnemonic = "START" then some .start
    else if mnemonic = "STOP" then some .stop
    else none
  | [a] =>
    if mnemonic = "REG_READ" then (asmReg a).map .regRead
    else if mnemonic = "EVT_EN" then (asmNat 16 a).map .evtEn
    else if mnemonic = "EVT_CLEAR" then (asmNat 16 a).map .evtClear
    else if mnemonic = "CRC_FEED" then (asmNat 16 a).map .crcFeed
    else if mnemonic = "WP_COUNT" then (asmChan a).map .wpCount
    else if mnemonic = "SET_MODE" then (asmMode a).map .setMode
    else if mnemonic = "SET_FREQ" then (asmNat 16 a).map .setFreq
    else if mnemonic = "SET_PORT" then (asmNat 32 a).map .setPort
    else if mnemonic = "SET_BAUD" then (asmNat 32 a).map .setBaud
    else none
  | [a, b] =>
    if mnemonic = "WP_REMOVE" then (asmChan a).bind (fun ch => (asmNat 8 b).map (.wpRemove ch))
    else if mnemonic = "WP_READ" then (asmChan a).bind (fun ch => (asmNat 8 b).map (.wpRead ch))
    else if mnemonic = "CURVE_EVAL" then (asmChan a).bind (fun ch => (asmTime b).map (.curveEval ch))
    else if mnemonic = "CACHE_READ" then (asmChan a).bind (fun ch => (asmNat 32 b).map (.cacheRead ch))
    else none
  | [a, b, c] =>
    if mnemonic = "WP_ADD" then
      (asmChan a).bind (fun ch => (asmTime b).bind (fun t => (asmPwm c).map (.wpAdd ch t)))
    else none
  | [a, b, c, d] =>
    if mnemonic = "WP_UPDATE" then
      (asmChan a).bind (fun ch => (asmNat 8 b).bind (fun i => (asmTime c).bind (fun t => (asmPwm d).map (.wpUpdate ch i t))))
    else none
  | _ => none

/-- `CRC_SEQ b0, ..., bn-1` (R66). -/
def crcSeq (bs : List Byte) : List Instr := .crcClear :: bs.map (fun b => .crcFeed (b.setWidth 16))

/-- `CLEAR_EVENTS` (R66). -/
def clearEvents : List Instr := [.evtClear 0x000F]

/-- What the `save` sequence of R66 reads: the mode, the frequency and every channel's waypoints. -/
structure Snapshot where
  mode : Mode
  freq : BitVec 16
  wp : Vector (List Waypoint) 8
deriving DecidableEq, Repr

/-- The channels, 0 first. -/
def allChans : List Chan := [0, 1, 2, 3, 4, 5, 6, 7]

/-- The `save` sequence (R66), `counts` being the host's `WP_COUNT` answers. DESIGN CHOICE (log 17): the channels and the
indices in rising order. -/
def saveProgram (counts : Vector Nat 8) : List Instr :=
  [.regRead 0x01, .regRead 0x02] ++
    allChans.flatMap (fun ch => .wpCount ch :: (List.range counts[ch]).map (fun i => .wpRead ch (BitVec.ofNat 8 i)))

/-- `WP_REMOVE ch, 0` until `WP_COUNT ch` returns 0 (R66), for any way of polling: each entry of `runs` is how many removes
the host issues before its next `WP_COUNT`, 0 for a poll at once. The spec leaves open how often the host polls, and so
does the model (log 17). -/
def clearChannel (ch : Chan) (runs : List Nat) : List Instr :=
  runs.flatMap (fun n => List.replicate n (.wpRemove ch 0) ++ [.wpCount ch])

/-- The `load` sequence (R66): every channel cleared, polled as `runs` says, then `SET_MODE`, `SET_FREQ` and `WP_ADD` of
each listed waypoint. DESIGN CHOICE (log 17): the channels in rising order, each cleared before the next, and the
waypoints of a channel in the order of the list. -/
def loadProgram (runs : Vector (List Nat) 8) (snap : Snapshot) : List Instr :=
  allChans.flatMap (fun ch => clearChannel ch runs[ch]) ++
    [.setMode (snap.mode.code.setWidth 16), .setFreq snap.freq] ++
    allChans.flatMap (fun ch => snap.wp[ch].map (fun w => .wpAdd ch w.time w.pwm))

end Sys2Proof.Machine
end

