-- ==== Sys2Proof/Safety.lean ====
section
/-! DEFINITION. What counts as a legal state, a legal history and a fair run, in the terms the statements use. -/

namespace Sys2Proof.Machine

/-- The canonical form of the waypoint memory (spec/10_state.md R34): every channel strictly rising in time, at most
`WP_DEPTH` = 256 waypoints. -/
abbrev WpWf (s : State) : Prop :=
  ∀ ch : Chan, (s.wpAt ch).Pairwise (fun a b => a.time < b.time) ∧ (s.wpAt ch).length ≤ 256

/-- The canonical form of the cache (R35, R26): a valid channel holds `step_count` samples in [1100, 1900], an invalid
one none. -/
abbrev CacheWf (s : State) : Prop :=
  ∀ ch : Chan,
    if s.validAt ch then
      s.cache[ch].length = s.stepCount.toNat ∧ ∀ v ∈ s.cache[ch], 1100 ≤ v.toNat ∧ v.toNat ≤ 1900
    else s.cache[ch] = []

/-- The timer (R33): while streaming `tick_ctr < INTERVAL(freq)`; else both timer fields are 0. -/
abbrev TimerWf (s : State) : Prop :=
  if s.link = .openStreaming then s.tickCtr.toNat < interval s.freq
  else s.tickCtr = 0 ∧ s.tickPending = false

/-- The registers' ranges: a legal frequency (R22); reserved event and enable bits 0 (R29, R30); WrongChannelCount never
recorded (spec/60_exceptions.md R117); `rmax`, `step_count` and `cursor` within the bounds that R25 and R18 derive. -/
abbrev RegsWf (s : State) : Prop :=
  s.freq ≠ 0 ∧ s.events &&& 0xFFF0 = 0 ∧ s.eventEn &&& 0xFFF0 = 0 ∧ s.lastErr ≠ .wrongChannelCount ∧
    s.rmax.toNat ≤ 65536 ∧ s.stepCount.toNat ≤ 65536 ∧ s.cursor.toNat ≤ 65537

/-- While streaming there is a cache and the cursor is at most one past its end (R25, R18). -/
abbrev StreamWf (s : State) : Prop :=
  s.link = .openStreaming → 1 ≤ s.stepCount.toNat ∧ s.cursor.toNat ≤ s.stepCount.toNat + 1

/-- The block's invariant. -/
abbrev Inv (s : State) : Prop := WpWf s ∧ CacheWf s ∧ TimerWf s ∧ RegsWf s ∧ StreamWf s

/-- The output histories the link state machine allows, with the link state each leads to: the column "transport
requests" of spec/45_scheduler.md R101, with the outcomes of R102, R106, R107, R108 and R110. -/
inductive HistoryOf : List TransportEvent → LinkState → Prop where
  | empty : HistoryOf [] .closed
  | openFailed {h : List TransportEvent} (p b : BitVec 32) :
      HistoryOf h .closed → HistoryOf (h ++ [.opened p b .fail]) .closed
  | openOk {h : List TransportEvent} (p b : BitVec 32) :
      HistoryOf h .closed → HistoryOf (h ++ [.opened p b .ok]) .openIdle
  | startOk {h : List TransportEvent} :
      HistoryOf h .openIdle → HistoryOf (h ++ [.wrote Config.startSeq .ok]) .openStreaming
  | startFailed {h : List TransportEvent} (w w' : WriteOutcome) : w ≠ .ok → HistoryOf h .openIdle →
      HistoryOf (h ++ [.wrote Config.startSeq w, .wrote idleFrame w', .closed]) .closed
  | frameOk {h : List TransportEvent} (v : Vector Int 8) :
      HistoryOf h .openStreaming → HistoryOf (h ++ [.wrote (frame v) .ok]) .openStreaming
  | frameFailed {h : List TransportEvent} (v : Vector Int 8) (w w' : WriteOutcome) :
      w ≠ .ok → HistoryOf h .openStreaming →
      HistoryOf (h ++ [.wrote (frame v) w, .wrote idleFrame w', .closed]) .closed
  | stopped {h : List TransportEvent} {l : LinkState} (w : WriteOutcome) : l ≠ .closed → HistoryOf h l →
      HistoryOf (h ++ [.wrote idleFrame w, .closed]) .closed

/-- The bytes of one history entry that reached the wire (R100). -/
def TransportEvent.wireBytes : TransportEvent → List Byte
  | .wrote bytes .ok => bytes
  | .wrote bytes (.failed sent) => bytes.take sent
  | .wrote _ .notOpen => []
  | .opened _ _ _ => []
  | .closed => []

/-- The byte stream on the wire, in order (R42, R100). -/
def wireStream (h : List TransportEvent) : List Byte := h.flatMap TransportEvent.wireBytes

/-- The block's state `S` alone: the interfaces and the model's own fields blanked. -/
def State.blockOnly (s : State) : State :=
  { s with history := [], responses := [], cmd := none, sched := [], openIn := [], writeIn := [], draws := 0 }

/-- The `ERR` field of a response word (spec/30_encoding.md R62). -/
def respErr (r : RespWord) : BitVec 8 := r.extractLsb' 56 8

/-- The `DATA` field of a response word (R62). -/
def respData (r : RespWord) : Data := r.extractLsb' 0 56

/-- The commands of a list performed one after another, nothing between them. -/
def execAll : List Instr → State → Host.Outcome State Fault Refusal
  | [], s => .next s
  | i :: is, s =>
    match exec i s with
    | .next t => execAll is t
    | .fault f => .fault f
    | .refused r => .refused r

/-- `n` strobes one after another (spec/45_scheduler.md R109). -/
def strobes : Nat → State → State
  | 0, s => s
  | n + 1, s => strobes n s.strobe

/-- `n` intervals, each of `INTERVAL(freq)` strobes followed by the tick, as long as the tick is enabled. -/
def intervals : Nat → State → State
  | 0, s => s
  | n + 1, s =>
    let t := strobes (interval s.freq) s
    intervals n (if t.tickEnabled then t.tick else t)

/-- An infinite run of the block. -/
def IsRun (r : Nat → State) : Prop := ∀ n, step (r n) = .next (r (n + 1))

/-- The fairness assumptions of R111, one clause each: strobes infinitely often; a tick that stays enabled is taken; "the
host does not present commands without end". DESIGN CHOICE (log 16): the last means that from some point on the run has no
`present` move. -/
def FairRun (r : Nat → State) : Prop :=
  (∀ n, ∃ k ≥ n, (r k).takeMove.1 = .strobe) ∧
  (∀ n, (∀ k ≥ n, (r k).tickEnabled) → ∃ k ≥ n, (r k).takeMove.1 = .tick) ∧
  (∃ n, ∀ k ≥ n, ∀ w, (r k).takeMove.1 ≠ .present w)

/-- The block owes the host a response to every command (spec/70_reset_and_hazards.md R137), so no command waits for ever.
R111 does not list it among its assumptions; DEDUCED (log 16). -/
def AnswersCommands (r : Nat → State) : Prop := ∀ n, ∃ k ≥ n, (r k).cmd = none

/-- The host's duty to "leave the command port idle often enough for ticks" (R137). DESIGN CHOICE (log 16): a tick that
stays pending finds the port idle for good from some point on, so that commands cannot keep it disabled for ever. -/
def IdleForTicks (r : Nat → State) : Prop :=
  ∀ n, (∀ k ≥ n, (r k).link = .openStreaming ∧ (r k).tickPending) → ∃ m ≥ n, ∀ k ≥ m, (r k).cmd = none

end Sys2Proof.Machine
end

