-- ==== Sys2Proof/WellFormed.lean ====
section
/-! DEFINITION. The operand-value check of spec/60_exceptions.md R121 (its second check) and R117 (the causes of
InvalidArgument), as a predicate on the command alone. Every `Instr` has an encoding (operand widths are in the types),
so decoding yields ill-formed commands too: R65 says such a line assembles "but fail[s] at execution with
InvalidArgument". -/

namespace Sys2Proof

/-- The operands of a command lie in their legal sets: register number at most 0x11 (R114), no event mask bit above 3
(R115, R116), CRC byte at most 0xFF (R70), mode at most 2 (R86), frequency not 0 (R103). No other operand has a
value check that can be made without the block's state. -/
def WellFormed : Instr → Bool
  | .regRead reg => decide (reg.toNat ≤ 0x11)
  | .evtEn mask => decide (mask.toNat ≤ 0xF)
  | .evtClear mask => decide (mask.toNat ≤ 0xF)
  | .crcFeed byte => decide (byte.toNat ≤ 0xFF)
  | .setMode mode => decide (mode.toNat ≤ 2)
  | .setFreq freq => decide (freq.toNat ≠ 0)
  | .nop | .crcClear | .connect | .start | .stop => true
  | .wpAdd _ _ _ | .wpUpdate _ _ _ _ | .wpRemove _ _ | .wpRead _ _ | .wpCount _ => true
  | .curveEval _ _ | .cacheRead _ _ => true
  | .setPort _ | .setBaud _ => true

end Sys2Proof
end

