-- ==== Sys2Proof/Certificates/Slice0/Obligations.lean ====
section
/-! DEFINITION. The statements about the TTB block, each from the rules of spec/ that its docstring names.
A command's statement gives its encoding (which words of its opcode decode to it), its next state for every state and
every operand, and so its frame: every field that the next state does not name is as it was. -/

open Sys2Proof Sys2Proof.Machine

/-! ## Encoding -/

/-- Decoding the word of a command gives the command back, every operand at every value (R56, R59, R60). -/
def Obligations.DecodeOfEncode : Prop := ∀ i : Instr, decode (encode i) = .ok i

/-- A word that decodes is the word of the command it decodes to: no bit of it is dropped (R56, R60). -/
def Obligations.EncodeOfDecode : Prop := ∀ (w : CmdWord) (i : Instr), decode w = .ok i → encode i = w

/-- Every 64-bit word selects exactly one row of R60 or is illegal (R60, R64): a word that decodes matches its command's
row and no other; a word that does not decode matches no row. -/
def Obligations.DecodeSelectsOneRow : Prop :=
  ∀ w : CmdWord,
    (∀ i, decode w = .ok i → ∀ o : Opcode, w &&& o.rowMask = o.rowMatch ↔ o = i.opcode) ∧
    (∀ e, decode w = .error e → ∀ o : Opcode, w &&& o.rowMask ≠ o.rowMatch)

/-- Words the spec writes out decode to the commands it says they are (R74, R75, R76, R77, R103, R105). -/
def Obligations.WrittenWordsDecode : Prop :=
  decode 0x4000076C000A0000 = .ok (.wpAdd 0 0x000A0000 1900) ∧
  decode 0x490204B000038000 = .ok (.wpUpdate 1 2 0x00038000 1200) ∧
  decode 0x5801000000000000 = .ok (.wpRead 0 1) ∧
  decode 0x0802000000000000 = .ok (.regRead 0x02) ∧
  decode 0xC000003200000000 = .ok (.setFreq 50) ∧
  decode 0xD00000000001C200 = .ok (.setBaud 115200) ∧
  decode 0x3000000000000000 = .error .reservedOpcode ∧
  decode 0x400105DC00000000 = .error .unusedField

/-! ## The step -/

/-- When the block's command step comes next and the waiting word decodes, the step is `exec` of that command, the port
emptied (R61, R59). -/
def Obligations.StepRunsDecodedCommand : Prop :=
  ∀ (s : State) (w : CmdWord) (i : Instr) (rest : List Move),
    s.sched = .command :: rest → s.cmd = some w → decode w = .ok i →
    step s = exec i { s with sched := rest, cmd := none }

/-- When the waiting word does not decode, the step changes `last_err`, sends the one response 0x08 and makes no
transport request (R61). -/
def Obligations.IllegalWordOnlySetsLastErr : Prop :=
  ∀ (s : State) (w : CmdWord) (e : DecodeError) (rest : List Move),
    s.sched = .command :: rest → s.cmd = some w → decode w = .error e →
    step s = .next { s with
      sched := rest, cmd := none, lastErr := .illegalCommand
      responses := s.responses ++ [0x0800000000000000] }

/-- The other moves: a strobe; a tick when it is enabled, which a waiting command prevents; the host's presenting a word;
reset; and with no move listed the step is that of a free move. The model's choice of how agents are scheduled is log 1,
of the host's duty log 2. -/
def Obligations.StepOfEachAgent : Prop :=
  (∀ (s : State) (rest : List Move), s.sched = .strobe :: rest → step s = .next { s with sched := rest }.strobe) ∧
  (∀ (s : State) (rest : List Move), s.sched = .tick :: rest →
    s.link = .openStreaming → s.tickPending = true → s.cmd = none → step s = .next { s with sched := rest }.tick) ∧
  (∀ (s : State) (rest : List Move), s.sched = .tick :: rest →
    (s.link ≠ .openStreaming ∨ s.tickPending = false ∨ s.cmd ≠ none) → step s = .next { s with sched := rest }) ∧
  (∀ (s : State) (w : CmdWord) (rest : List Move), s.sched = .present w :: rest → s.cmd = none →
    step s = .next { s with sched := rest, cmd := some w }) ∧
  (∀ (s : State) (w v : CmdWord) (rest : List Move), s.sched = .present w :: rest → s.cmd = some v →
    step s = .fault .commandOutstanding) ∧
  (∀ (s : State), s.sched = [] →
    step s = step { s with sched := [Config.freeMove s.draws], draws := s.draws + 1 })

/-- Every step answers a next state, except the host's presenting a second command before the response (R48, I18). -/
def Obligations.OnlyASecondCommandStops : Prop :=
  (∀ (s : State) (w v : CmdWord), s.takeMove.1 = .present w → s.cmd = some v → step s = .fault .commandOutstanding) ∧
  (∀ s : State, (∀ w v : CmdWord, s.takeMove.1 = .present w → s.cmd ≠ some v) → ∃ t, step s = .next t)

/-! ## Reset -/

/-- The state after reset (R38, R133, R135); and reset as a step, from any state: it makes no transport request and owes no
response (R134). That it keeps what the agents outside will do is the model's choice (log 14). -/
def Obligations.ResetLeavesTheSpecsValues : Prop :=
  (let s := State.reset
  s.link = .closed ∧ s.mode = .linear ∧ s.freq = 20 ∧ s.port = 0 ∧ s.baud = 0 ∧ (∀ ch : Chan, s.wpAt ch = []) ∧
  s.curveValid = 0 ∧ s.stepCount = 0 ∧ s.rmax = 0 ∧ s.cacheStale = true ∧ s.cursor = 0 ∧ s.tickCtr = 0 ∧
  s.tickPending = false ∧ s.crc = 0 ∧ s.events = 0 ∧ s.eventEn = 0 ∧ s.lastErr = .ok ∧ s.irq = false ∧
  s.history = [] ∧ s.responses = [] ∧ s.cmd = none ∧
  (∀ (ch : Chan) (k : BitVec 32), exec (.cacheRead ch k) s = .next (s.fail .insufficientData))) ∧
  ∀ (s : State) (rest : List Move), s.sched = .reset :: rest →
    ∃ t, step s = .next t ∧ t.blockOnly = State.reset.blockOnly ∧ t.history = [] ∧ t.responses = [] ∧ t.cmd = none ∧
      t.sched = rest ∧ t.openIn = s.openIn ∧ t.writeIn = s.writeIn ∧ t.draws = s.draws

/-! ## Control and status -/

/-- `respond` and `fail` (R14, R62): one response word `{e, d}`; a failure also records its code. -/
def Obligations.RespondAndFail : Prop :=
  (∀ (s : State) (e : ErrCode) (d : Data),
    ∃ r, s.respond e d = { s with responses := s.responses ++ [r] } ∧ respErr r = e.code ∧ respData r = d) ∧
  (∀ (s : State) (e : ErrCode),
    ∃ r, s.fail e = { s with lastErr := e, responses := s.responses ++ [r] } ∧ respErr r = e.code ∧ respData r = 0)

/-- NOP (R113). -/
def Obligations.NopDoesNothing : Prop :=
  (∀ ch idx a16 a32, decode (commandWord 0x00 ch idx a16 a32) =
    if ch = 0 ∧ idx = 0 ∧ a16 = 0 ∧ a32 = 0 then .ok .nop else .error .unusedField) ∧
  (∀ s : State, exec .nop s = .next (s.respond .ok 0)) ∧
  (∀ s : State, s.cmd = some 0 → s.tickEnabled = false)

/-- REG_READ (R114, R36): every register of the map, zero-extended; a reserved number fails with InvalidArgument. -/
def Obligations.RegReadReturnsTheRegister : Prop :=
  (∀ ch idx a16 a32, decode (commandWord 0x01 ch idx a16 a32) =
    if ch = 0 ∧ a16 = 0 ∧ a32 = 0 then .ok (.regRead idx) else .error .unusedField) ∧
  (∀ s : State,
    exec (.regRead 0x00) s = .next (s.respond .ok (s.link.code.setWidth 56)) ∧
    exec (.regRead 0x01) s = .next (s.respond .ok (s.mode.code.setWidth 56)) ∧
    exec (.regRead 0x02) s = .next (s.respond .ok (s.freq.setWidth 56)) ∧
    exec (.regRead 0x03) s = .next (s.respond .ok (BitVec.ofNat 56 (max 1 (1000 / s.freq.toNat)))) ∧
    exec (.regRead 0x04) s = .next (s.respond .ok (s.port.setWidth 56)) ∧
    exec (.regRead 0x05) s = .next (s.respond .ok (s.baud.setWidth 56)) ∧
    exec (.regRead 0x06) s = .next (s.respond .ok (s.cursor.setWidth 56)) ∧
    exec (.regRead 0x07) s = .next (s.respond .ok (s.stepCount.setWidth 56)) ∧
    exec (.regRead 0x08) s = .next (s.respond .ok (s.rmax.setWidth 56)) ∧
    exec (.regRead 0x09) s = .next (s.respond .ok (s.curveValid.setWidth 56)) ∧
    exec (.regRead 0x0A) s = .next (s.respond .ok (if s.cacheStale then 1 else 0)) ∧
    exec (.regRead 0x0B) s = .next (s.respond .ok (s.events.setWidth 56)) ∧
    exec (.regRead 0x0C) s = .next (s.respond .ok (s.eventEn.setWidth 56)) ∧
    exec (.regRead 0x0D) s = .next (s.respond .ok (s.lastErr.code.setWidth 56)) ∧
    exec (.regRead 0x0E) s = .next (s.respond .ok (s.crc.setWidth 56)) ∧
    exec (.regRead 0x0F) s = .next (s.respond .ok (s.tickCtr.setWidth 56)) ∧
    exec (.regRead 0x10) s = .next (s.respond .ok (if s.tickPending then 1 else 0)) ∧
    exec (.regRead 0x11) s = .next (s.respond .ok (if s.events &&& s.eventEn ≠ 0 then 1 else 0))) ∧
  (∀ (s : State) (reg : BitVec 8), 0x12 ≤ reg.toNat → exec (.regRead reg) s = .next (s.fail .invalidArgument))

/-- EVT_EN (R115); `irq` follows at once (R31). -/
def Obligations.EvtEnSetsTheMask : Prop :=
  (∀ ch idx a16 a32, decode (commandWord 0x02 ch idx a16 a32) =
    if ch = 0 ∧ idx = 0 ∧ a32 = 0 then .ok (.evtEn a16) else .error .unusedField) ∧
  (∀ (s : State) (mask : BitVec 16),
    if mask.toNat ≤ 0xF then
      ∃ t, exec (.evtEn mask) s = .next t ∧ t = { s with eventEn := mask }.respond .ok 0 ∧
        (t.irq = true ↔ s.events &&& mask ≠ 0)
    else exec (.evtEn mask) s = .next (s.fail .invalidArgument))

/-- EVT_CLEAR (R116); `irq` follows at once (R31). -/
def Obligations.EvtClearClearsTheBits : Prop :=
  (∀ ch idx a16 a32, decode (commandWord 0x03 ch idx a16 a32) =
    if ch = 0 ∧ idx = 0 ∧ a32 = 0 then .ok (.evtClear a16) else .error .unusedField) ∧
  (∀ (s : State) (mask : BitVec 16),
    if mask.toNat ≤ 0xF then
      ∃ t, exec (.evtClear mask) s = .next t ∧
        t = { s with events := s.events &&& ~~~mask }.respond .ok ((s.events &&& ~~~mask).setWidth 56) ∧
        (t.irq = true ↔ s.events &&& ~~~mask &&& s.eventEn ≠ 0)
    else exec (.evtClear mask) s = .next (s.fail .invalidArgument))

/-! ## CRC-8 generator -/

/-- `crc8_step` (R67), its loop written out, with the value `crc8("123456789") = 0xF4` that the rule names, and the golden
vector (R71). -/
def Obligations.CrcStepIsTheSourcesLoop : Prop :=
  (∀ r b : Byte, crc8Step r b =
    (List.replicate 8 ()).foldl
      (fun x _ => if x.getLsbD 7 then ((x <<< 1) ^^^ 0x07) &&& 0xFF else (x <<< 1) &&& 0xFF) (r ^^^ b)) ∧
  crc8 [0x31, 0x32, 0x33, 0x34, 0x35, 0x36, 0x37, 0x38, 0x39] = 0xF4 ∧
  crc8 [0xAA, 0x00, 0x00] = 0xCF

/-- A sequence followed by its own CRC has CRC 0, and a change of any one byte changes the CRC (from R67 and R68): what
lets a receiver that "recomputes the same CRC" reject a corrupted byte. -/
def Obligations.CrcDetectsAChangedByte : Prop :=
  (∀ s : List Byte, crc8 (s ++ [crc8 s]) = 0) ∧
  (∀ (s t : List Byte) (a b : Byte), crc8 (s ++ a :: t) = crc8 (s ++ b :: t) → a = b)

/-- CRC_CLEAR (R69) and CRC_FEED (R70), one byte and, after a CRC_CLEAR, a sequence of them. -/
def Obligations.CrcClearAndCrcFeed : Prop :=
  (∀ ch idx a16 a32, decode (commandWord 0x04 ch idx a16 a32) =
    if ch = 0 ∧ idx = 0 ∧ a16 = 0 ∧ a32 = 0 then .ok .crcClear else .error .unusedField) ∧
  (∀ s : State, exec .crcClear s = .next ({ s with crc := 0x00 }.respond .ok 0)) ∧
  (∀ ch idx a16 a32, decode (commandWord 0x05 ch idx a16 a32) =
    if ch = 0 ∧ idx = 0 ∧ a32 = 0 then .ok (.crcFeed a16) else .error .unusedField) ∧
  (∀ (s : State) (b : Byte),
    exec (.crcFeed (b.setWidth 16)) s =
      .next ({ s with crc := crc8Step s.crc b }.respond .ok ((crc8Step s.crc b).setWidth 56))) ∧
  (∀ (s : State) (v : BitVec 16), 0xFF < v.toNat → exec (.crcFeed v) s = .next (s.fail .invalidArgument)) ∧
  (∀ (s : State) (bs : List Byte), ∃ t, execAll (crcSeq bs) s = .next t ∧ t.crc = crc8 bs)

/-- CRC_SEQ and then REG_READ CRC (R66, R70): the commands complete, the last response is `crc8` of the bytes, and
nothing but the CRC register and the responses has changed. -/
def Obligations.CrcSequenceReturnsCrc8 : Prop :=
  ∀ (bs : List Byte) (s : State),
    ∃ rs, execAll (crcSeq bs ++ [.regRead 0x0E]) s =
      .next { s with crc := crc8 bs, responses := s.responses ++ rs ++ [respWord .ok ((crc8 bs).setWidth 56)] } ∧
      rs.length = bs.length + 1

/-! ## Waypoint memory -/

/-- WP_ADD (R74, R72): in a legal waypoint memory the channel becomes the sorted sequence that holds the new waypoint and
every old one of another time, and the response is the new waypoint's index; a new time in a full channel fails. -/
def Obligations.WpAddInsertsOrReplaces : Prop :=
  (∀ ch idx a16 a32, decode (commandWord 0x08 ch idx a16 a32) =
    if idx = 0 then .ok (.wpAdd (chanOfBits ch) a32 a16) else .error .unusedField) ∧
  (∀ (s : State) (ch : Chan) (time : RawTime) (pwm : RawPwm), WpWf s →
    if (s.wpAt ch).length = 256 ∧ ∀ w ∈ s.wpAt ch, w.time ≠ time then
      exec (.wpAdd ch time pwm) s = .next (s.fail .storeFull)
    else
      ∃ (l : List Waypoint) (j : Nat),
        exec (.wpAdd ch time pwm) s =
          .next ({ s with wp := s.wp.set ch.val l ch.isLt, cacheStale := true }.respond .ok (BitVec.ofNat 56 j)) ∧
        l.Pairwise (fun a b => a.time < b.time) ∧ l.length ≤ 256 ∧ l[j]? = some ⟨time, pwm⟩ ∧
        ∀ w, w ∈ l ↔ w = ⟨time, pwm⟩ ∨ (w ∈ s.wpAt ch ∧ w.time ≠ time))

/-- WP_UPDATE (R75, R72): the entry at the index is taken out, and the new waypoint takes its place in time order,
replacing one of the same time; an index outside the channel fails. -/
def Obligations.WpUpdateReplacesAndResorts : Prop :=
  (∀ ch idx a16 a32, decode (commandWord 0x09 ch idx a16 a32) = .ok (.wpUpdate (chanOfBits ch) idx a32 a16)) ∧
  (∀ (s : State) (ch : Chan) (idx : BitVec 8) (time : RawTime) (pwm : RawPwm), WpWf s →
    match (s.wpAt ch)[idx.toNat]? with
    | none => exec (.wpUpdate ch idx time pwm) s = .next (s.fail .indexOutOfRange)
    | some old =>
      ∃ (l : List Waypoint) (j : Nat),
        exec (.wpUpdate ch idx time pwm) s =
          .next ({ s with wp := s.wp.set ch.val l ch.isLt, cacheStale := true }.respond .ok (BitVec.ofNat 56 j)) ∧
        l.Pairwise (fun a b => a.time < b.time) ∧ l[j]? = some ⟨time, pwm⟩ ∧
        ∀ w, w ∈ l ↔ w = ⟨time, pwm⟩ ∨ (w ∈ s.wpAt ch ∧ w ≠ old ∧ w.time ≠ time))

/-- WP_REMOVE (R76): the later entries move down by one; an index outside the channel fails. -/
def Obligations.WpRemoveDeletesTheEntry : Prop :=
  (∀ ch idx a16 a32, decode (commandWord 0x0A ch idx a16 a32) =
    if a16 = 0 ∧ a32 = 0 then .ok (.wpRemove (chanOfBits ch) idx) else .error .unusedField) ∧
  (∀ (s : State) (ch : Chan) (idx : BitVec 8),
    if idx.toNat < (s.wpAt ch).length then
      exec (.wpRemove ch idx) s = .next ({ s with
        wp := s.wp.set ch.val ((s.wpAt ch).take idx.toNat ++ (s.wpAt ch).drop (idx.toNat + 1)) ch.isLt
        cacheStale := true }.respond .ok 0)
    else exec (.wpRemove ch idx) s = .next (s.fail .indexOutOfRange))

/-- WP_READ (R77): `DATA[47:32]` is the PWM pattern, `DATA[31:0]` the time, `DATA[55:48]` zero; WP_COUNT (R78); no state
but the response changes. -/
def Obligations.WpReadAndWpCount : Prop :=
  (∀ ch idx a16 a32, decode (commandWord 0x0B ch idx a16 a32) =
    if a16 = 0 ∧ a32 = 0 then .ok (.wpRead (chanOfBits ch) idx) else .error .unusedField) ∧
  (∀ (s : State) (ch : Chan) (idx : BitVec 8),
    match (s.wpAt ch)[idx.toNat]? with
    | none => exec (.wpRead ch idx) s = .next (s.fail .indexOutOfRange)
    | some w =>
      ∃ d : Data, exec (.wpRead ch idx) s = .next (s.respond .ok d) ∧
        d.extractLsb' 0 32 = w.time ∧ d.extractLsb' 32 16 = w.pwm ∧ d.extractLsb' 48 8 = 0) ∧
  (∀ ch idx a16 a32, decode (commandWord 0x0C ch idx a16 a32) =
    if idx = 0 ∧ a16 = 0 ∧ a32 = 0 then .ok (.wpCount (chanOfBits ch)) else .error .unusedField) ∧
  (∀ (s : State) (ch : Chan), WpWf s →
    ∃ d : Data, exec (.wpCount ch) s = .next (s.respond .ok d) ∧ d.toNat = (s.wpAt ch).length)

/-! ## Curve interpolator -/

/-- `curve` for no waypoint and for one (R79): InsufficientData; the constant in every mode. -/
def Obligations.CurveOfFewWaypoints : Prop :=
  (∀ (m : Mode) (t : ℚ), curve .exact [] m t = none) ∧
  (∀ (w : Waypoint) (m : Mode) (t : ℚ), curve .exact [w] m t = some (w.pwm.toInt : ℚ))

/-- Linear mode (R80): `seg(t)` and the line of that segment, extended below the first and above the last. -/
def Obligations.LinearCurveBySegment : Prop :=
  ∀ (l : List Waypoint) (t : ℚ) (j : Nat) (a b : Waypoint),
    l.Pairwise (fun a b => a.time < b.time) → l[j]? = some a → l[j + 1]? = some b →
    (j = 0 ∨ (a.time.toNat : ℚ) / 65536 ≤ t) → (j + 2 = l.length ∨ t < (b.time.toNat : ℚ) / 65536) →
    curve .exact l .linear t =
      some ((a.pwm.toInt : ℚ) + ((b.pwm.toInt : ℚ) - (a.pwm.toInt : ℚ)) *
        (t - (a.time.toNat : ℚ) / 65536) / ((b.time.toNat : ℚ) / 65536 - (a.time.toNat : ℚ) / 65536))

/-- StepHold mode (R81): the value of the last waypoint at or before `t`; before the first, the first waypoint's. -/
def Obligations.StepHoldCurveHoldsTheLastValue : Prop :=
  ∀ (l : List Waypoint) (t : ℚ), l.Pairwise (fun a b => a.time < b.time) →
    (∀ a, l[0]? = some a → t < (a.time.toNat : ℚ) / 65536 → curve .exact l .stepHold t = some (a.pwm.toInt : ℚ)) ∧
    (∀ (j : Nat) (a : Waypoint), l[j]? = some a → (a.time.toNat : ℚ) / 65536 ≤ t →
      (∀ b, l[j + 1]? = some b → t < (b.time.toNat : ℚ) / 65536) →
      curve .exact l .stepHold t = some (a.pwm.toInt : ℚ))

/-- Polynomial mode (R82): the curve is a polynomial of degree at most `n - 1` that passes through the `n` points, and no
other polynomial of that degree does. -/
def Obligations.PolynomialCurveInterpolates : Prop :=
  ∀ l : List Waypoint, l ≠ [] → l.Pairwise (fun a b => a.time < b.time) →
    ∃ p : Polynomial ℚ, p.natDegree ≤ l.length - 1 ∧
      (∀ t : ℚ, curve .exact l .polynomial t = some (p.eval t)) ∧
      (∀ w ∈ l, p.eval ((w.time.toNat : ℚ) / 65536) = (w.pwm.toInt : ℚ)) ∧
      (∀ q : Polynomial ℚ, q.natDegree ≤ l.length - 1 →
        (∀ w ∈ l, q.eval ((w.time.toNat : ℚ) / 65536) = (w.pwm.toInt : ℚ)) → q = p)

/-- `to_sample` and `clipped` (R84, R15): the sample is the floor of the clamped value and lies in [1100, 1900]; clamping
after the conversion gives the same. -/
def Obligations.SampleIsTheClampedFloor : Prop :=
  ∀ v : ℚ,
    ((toSample .truncate v).toNat : Int) = ⌊min (1900 : ℚ) (max 1100 v)⌋ ∧
    ((toSample .truncate v).toNat : Int) = min 1900 (max 1100 ⌊v⌋) ∧
    1100 ≤ (toSample .truncate v).toNat ∧ (toSample .truncate v).toNat ≤ 1900 ∧
    (clipped v = true ↔ v < 1100 ∨ 1900 < v)

/-- SET_MODE (R86). -/
def Obligations.SetModeSelectsTheMode : Prop :=
  (∀ ch idx a16 a32, decode (commandWord 0x10 ch idx a16 a32) =
    if ch = 0 ∧ idx = 0 ∧ a32 = 0 then .ok (.setMode a16) else .error .unusedField) ∧
  (∀ (s : State) (mode : BitVec 16),
    if mode.toNat ≤ 2 then
      ∃ m : Mode, m.code = mode.extractLsb' 0 2 ∧
        exec (.setMode mode) s = .next ({ s with mode := m, cacheStale := true }.respond .ok 0)
    else exec (.setMode mode) s = .next (s.fail .invalidArgument))

/-- CURVE_EVAL (R87): the live curve's clamped sample in `DATA[15:0]`, the clip flag in `DATA[16]`, zero above; nothing
else changes. -/
def Obligations.CurveEvalReturnsTheSample : Prop :=
  (∀ ch idx a16 a32, decode (commandWord 0x11 ch idx a16 a32) =
    if idx = 0 ∧ a16 = 0 then .ok (.curveEval (chanOfBits ch) a32) else .error .unusedField) ∧
  (∀ (s : State) (ch : Chan) (time : RawTime),
    match curve .exact (s.wpAt ch) s.mode ((time.toNat : ℚ) / 65536) with
    | none => s.wpAt ch = [] ∧ exec (.curveEval ch time) s = .next (s.fail .insufficientData)
    | some v =>
      s.wpAt ch ≠ [] ∧
      ∃ d : Data, exec (.curveEval ch time) s = .next (s.respond .ok d) ∧
        ((d.extractLsb' 0 16).toNat : Int) = ⌊min (1900 : ℚ) (max 1100 v)⌋ ∧
        (d.getLsbD 16 = true ↔ v < 1100 ∨ 1900 < v) ∧ d.extractLsb' 17 39 = 0)

/-! ## Sampler and cache -/

/-- The global maximum time and its rounding (R88, R89): `M` bounds every waypoint time and is reached, or 0; `R` is
`M / 65536` rounded to the nearest whole second, ties to the even one, at most 65536. -/
def Obligations.MaximumTimeRoundsHalfToEven : Prop :=
  ∀ s : State,
    (∀ (ch : Chan), ∀ w ∈ s.wpAt ch, w.time.toNat ≤ maxRawTime s) ∧
    (maxRawTime s = 0 ∨ ∃ ch : Chan, ∃ w ∈ s.wpAt ch, w.time.toNat = maxRawTime s) ∧
    2 * ((65536 * roundedMaxTime s : Nat) - (maxRawTime s : Int)).natAbs ≤ 65536 ∧
    (2 * ((65536 * roundedMaxTime s : Nat) - (maxRawTime s : Int)).natAbs = 65536 → roundedMaxTime s % 2 = 0) ∧
    roundedMaxTime s ≤ 65536

/-- CACHE_READ (R93), in a state whose cache has its canonical form: the invalid-channel check first, then the index,
then the cached sample; no state but the response changes. -/
def Obligations.CacheReadReturnsTheSample : Prop :=
  (∀ ch idx a16 a32, decode (commandWord 0x12 ch idx a16 a32) =
    if idx = 0 ∧ a16 = 0 then .ok (.cacheRead (chanOfBits ch) a32) else .error .unusedField) ∧
  (∀ (s : State) (ch : Chan) (k : BitVec 32), CacheWf s →
    if s.curveValid.getLsbD ch.val = false then exec (.cacheRead ch k) s = .next (s.fail .insufficientData)
    else if s.stepCount ≤ k then exec (.cacheRead ch k) s = .next (s.fail .indexOutOfRange)
    else ∃ v : Sample, (s.cache[ch])[k.toNat]? = some v ∧
      exec (.cacheRead ch k) s = .next (s.respond .ok (v.setWidth 56)))

/-! ## Packet framer -/

/-- The frame of any eight values (R94, R95): 21 bytes, header, each value clamped and low byte first at `3+2ch` and
`4+2ch`, the CRC of the first 19 bytes, the trailer; eight times 1500 give the idle frame's bytes (R96). -/
def Obligations.FrameLayout : Prop :=
  ∀ v : Vector Int 8,
    (frame v).length = 21 ∧ (frame v).take 3 = [0xAA, 0x00, 0x00] ∧
    (∀ ch : Chan, ∃ lo hi : Byte, (frame v)[3 + 2 * ch.val]? = some lo ∧ (frame v)[4 + 2 * ch.val]? = some hi ∧
      (lo.toNat + 256 * hi.toNat : Int) = min 1900 (max 1100 v[ch])) ∧
    (frame v)[19]? = some (crc8 ((frame v).take 19)) ∧ (frame v)[20]? = some 0xEE ∧
    ((∀ ch : Chan, v[ch] = 1500) → frame v = [0xAA, 0x00, 0x00, 0xDC, 0x05, 0xDC, 0x05, 0xDC, 0x05, 0xDC, 0x05, 0xDC, 0x05,
      0xDC, 0x05, 0xDC, 0x05, 0xDC, 0x05, 0x81, 0xEE])

/-! ## Scheduler and link -/

/-- SET_FREQ (R103): while streaming the timer restarts; the cache, the cursor and a pending tick stay. -/
def Obligations.SetFreqChangesTheInterval : Prop :=
  (∀ ch idx a16 a32, decode (commandWord 0x18 ch idx a16 a32) =
    if ch = 0 ∧ idx = 0 ∧ a32 = 0 then .ok (.setFreq a16) else .error .unusedField) ∧
  (∀ (s : State) (f : BitVec 16),
    if f = 0 then exec (.setFreq f) s = .next (s.fail .invalidArgument)
    else if s.link = .openStreaming then
      exec (.setFreq f) s = .next ({ s with freq := f, cacheStale := true, tickCtr := 0 }.respond .ok 0)
    else exec (.setFreq f) s = .next ({ s with freq := f, cacheStale := true }.respond .ok 0))

/-- SET_PORT (R104) and SET_BAUD (R105). -/
def Obligations.SetPortAndSetBaudStoreTheirOperand : Prop :=
  (∀ ch idx a16 a32, decode (commandWord 0x19 ch idx a16 a32) =
    if ch = 0 ∧ idx = 0 ∧ a16 = 0 then .ok (.setPort a32) else .error .unusedField) ∧
  (∀ (s : State) (v : BitVec 32), exec (.setPort v) s = .next ({ s with port := v }.respond .ok 0)) ∧
  (∀ ch idx a16 a32, decode (commandWord 0x1A ch idx a16 a32) =
    if ch = 0 ∧ idx = 0 ∧ a16 = 0 then .ok (.setBaud a32) else .error .unusedField) ∧
  (∀ (s : State) (v : BitVec 32), exec (.setBaud v) s = .next ({ s with baud := v }.respond .ok 0))

/-- CONNECT (R106): refused when not Closed, with no request; else one `open` with the port and baud, its outcome the
transport's next answer. -/
def Obligations.ConnectOpensTheTransport : Prop :=
  (∀ ch idx a16 a32, decode (commandWord 0x1B ch idx a16 a32) =
    if ch = 0 ∧ idx = 0 ∧ a16 = 0 ∧ a32 = 0 then .ok .connect else .error .unusedField) ∧
  (∀ s : State,
    if s.link ≠ .closed then exec .connect s = .next (s.fail .invalidState)
    else if s.nextOpen = .ok then
      exec .connect s = .next
        (({ s.dropOpen with link := .openIdle, history := s.history ++ [.opened s.port s.baud .ok] } : State).respond .ok 0)
    else
      exec .connect s = .next (({ s.dropOpen with history := s.history ++ [.opened s.port s.baud .fail] } : State).fail .linkOpenFailed))

/-- START's refusals, in the order of R122 (R107, R90): InvalidState while streaming, NoWaveformData, CacheOverflow, each
without a transport request; then, from Closed, LinkOpenFailed with the cache untouched. -/
def Obligations.StartRefusalsInOrder : Prop :=
  (∀ ch idx a16 a32, decode (commandWord 0x1C ch idx a16 a32) =
    if ch = 0 ∧ idx = 0 ∧ a16 = 0 ∧ a32 = 0 then .ok .start else .error .unusedField) ∧
  (∀ s : State, s.link = .openStreaming → exec .start s = .next (s.fail .invalidState)) ∧
  (∀ s : State, s.link ≠ .openStreaming → (∀ ch : Chan, s.wpAt ch = []) →
    exec .start s = .next (s.fail .noWaveformData)) ∧
  (∀ (s : State) (ch : Chan), s.link ≠ .openStreaming → s.wpAt ch ≠ [] →
    65536 < roundedMaxTime s * s.freq.toNat + 1 → exec .start s = .next (s.fail .cacheOverflow)) ∧
  (∀ (s : State) (ch : Chan), s.link = .closed → s.wpAt ch ≠ [] →
    roundedMaxTime s * s.freq.toNat + 1 ≤ 65536 → s.nextOpen = .fail →
    exec .start s =
      .next (({ s.dropOpen with history := s.history ++ [.opened s.port s.baud .fail] } : State).fail .linkOpenFailed))

/-- START once the link is open (R107, R92, R91, R102), from Open-Idle or after a successful open from Closed: the
rebuild, the start sequence, and by its outcome the stream or a forced stop. The rebuilt cache holds, for each non-empty
channel, one sample for each `t_k = k / f`, the clamped floor of its curve there; an empty channel becomes invalid. -/
def Obligations.StartRebuildsAndStreamsOrStops : Prop :=
  ∀ (s u : State) (ch : Chan), s.wpAt ch ≠ [] → roundedMaxTime s * s.freq.toNat + 1 ≤ 65536 →
    (s.link = .openIdle ∧ u = s ∨
      s.link = .closed ∧ s.nextOpen = .ok ∧
        u = { s.dropOpen with link := .openIdle, history := s.history ++ [.opened s.port s.baud .ok] }) →
    ∃ (cache : Vector (List Sample) 8) (valid : BitVec 8),
      (∀ c : Chan,
        if s.wpAt c = [] then valid.getLsbD c.val = false
        else valid.getLsbD c.val = true ∧ cache[c].length = roundedMaxTime s * s.freq.toNat + 1 ∧
          ∀ k ≤ roundedMaxTime s * s.freq.toNat, ∃ (v : ℚ) (x : Sample),
            curve .exact (s.wpAt c) s.mode ((k : ℚ) / (s.freq.toNat : ℚ)) = some v ∧
            (cache[c])[k]? = some x ∧ (x.toNat : Int) = ⌊min (1900 : ℚ) (max 1100 v)⌋) ∧
      let b : State := { u.dropWrite with
        cache := cache, curveValid := valid, cacheStale := false
        stepCount := BitVec.ofNat 32 (roundedMaxTime s * s.freq.toNat + 1)
        rmax := BitVec.ofNat 32 (roundedMaxTime s)
        events := if ∃ c : Chan, s.wpAt c = [] then s.events ||| 0x0004 else s.events
        tickCtr := 0, tickPending := false }
      match u.nextWrite with
        | .ok => exec .start s = .next (({ b with
            link := .openStreaming, cursor := 0
            history := u.history ++ [.wrote Config.startSeq .ok] } : State).respond .ok 0)
        | w => exec .start s = .next (({ b.dropWrite with
            link := .closed, lastErr := w.errCode, events := b.events ||| 0x0002
            history := u.history ++ [.wrote Config.startSeq w, .wrote idleFrame b.nextWrite, .closed] } : State).respond
              w.errCode 0)

/-- STOP (R108, R102): a no-op in Closed; else the tick cancelled, the idle frame, the close, Closed, and the write's
error reported. -/
def Obligations.StopEndsClosed : Prop :=
  (∀ ch idx a16 a32, decode (commandWord 0x1D ch idx a16 a32) =
    if ch = 0 ∧ idx = 0 ∧ a16 = 0 ∧ a32 = 0 then .ok .stop else .error .unusedField) ∧
  (∀ s : State, s.link = .closed → exec .stop s = .next (s.respond .ok 0)) ∧
  (∀ s : State, s.link ≠ .closed →
    let t : State := { s.dropWrite with
      tickPending := false, tickCtr := 0, link := .closed
      history := s.history ++ [.wrote idleFrame s.nextWrite, .closed] }
    match s.nextWrite with
      | .ok => exec .stop s = .next (t.respond .ok 0)
      | .notOpen => exec .stop s = .next (t.fail .linkNotOpen)
      | .failed _ => exec .stop s = .next (t.fail .writeFailed))

/-- The timebase strobe (R109). -/
def Obligations.StrobeCountsAndExpires : Prop :=
  (∀ s : State, s.link ≠ .openStreaming → s.strobe = s) ∧
  (∀ s : State, s.link = .openStreaming → (s.tickCtr + 1).toNat < max 1 (1000 / s.freq.toNat) →
    s.strobe = { s with tickCtr := s.tickCtr + 1 }) ∧
  (∀ s : State, s.link = .openStreaming → max 1 (1000 / s.freq.toNat) ≤ (s.tickCtr + 1).toNat →
    s.strobe = if s.tickPending then { s with tickCtr := 0, events := s.events ||| 0x0008 }
      else { s with tickCtr := 0, tickPending := true })

/-- "So a tick becomes pending every `INTERVAL(S.freq)` strobes" (R109): from a cleared timer, `k` strobes short of the
interval only count, and a whole interval makes the tick pending, or TICK_OVERRUN if one still is. -/
def Obligations.TickPendingEveryInterval : Prop :=
  ∀ s : State, s.link = .openStreaming → s.tickCtr = 0 →
    (∀ k < max 1 (1000 / s.freq.toNat), strobes k s = { s with tickCtr := BitVec.ofNat 16 k }) ∧
    strobes (max 1 (1000 / s.freq.toNat)) s =
      if s.tickPending then { s with events := s.events ||| 0x0008 } else { s with tickPending := true }

/-- The tick (R110, R102): when it is enabled, and each of its four outcomes in a state whose cache has its canonical
form. -/
def Obligations.TickSendsOneFrame : Prop :=
  (∀ s : State, s.tickEnabled = true ↔ s.link = .openStreaming ∧ s.tickPending = true ∧ s.cmd = none) ∧
  (∀ s : State, CacheWf s → s.cursor ≤ s.stepCount →
    ∃ v : Vector Int 8,
      (∀ ch : Chan, (s.curveValid.getLsbD ch.val = true ∧ s.cursor < s.stepCount →
          ∃ x : Sample, (s.cache[ch])[s.cursor.toNat]? = some x ∧ v[ch] = (x.toNat : Int)) ∧
        (¬ (s.curveValid.getLsbD ch.val = true ∧ s.cursor < s.stepCount) → v[ch] = 1500)) ∧
      match s.nextWrite with
        | .ok => s.tick = { s.dropWrite with
            tickPending := false, cursor := s.cursor + 1, history := s.history ++ [.wrote (frame v) .ok] }
        | w => s.tick = { s.dropWrite.dropWrite with
            tickPending := false, tickCtr := 0, link := .closed, lastErr := w.errCode, events := s.events ||| 0x0002
            history := s.history ++ [.wrote (frame v) w, .wrote idleFrame s.dropWrite.nextWrite, .closed] }) ∧
  (∀ s : State, s.stepCount < s.cursor →
    s.tick = { s.dropWrite with
      tickPending := false, tickCtr := 0, link := .closed, events := s.events ||| 0x0001
      lastErr := if s.nextWrite = .ok then s.lastErr else s.nextWrite.errCode
      history := s.history ++ [.wrote idleFrame s.nextWrite, .closed] })

/-! ## Whole-machine rules -/

/-- Every command answers a next state with exactly one more response (R62); the response's data is 0 when its code is
not; `last_err` is that code when it is an error and as before when it is not; and the code is one the block produces:
never WrongChannelCount (R98, R117). So does every command word, including one that fails decoding. -/
def Obligations.EveryCommandSendsOneResponse : Prop :=
  (∀ (i : Instr) (s : State), ∃ (t : State) (e : ErrCode) (d : Data),
    exec i s = .next t ∧ t.responses = s.responses ++ [respWord e d] ∧
    (e ≠ .ok → d = 0 ∧ t.lastErr = e) ∧ (e = .ok → t.lastErr = s.lastErr) ∧ e ≠ .wrongChannelCount) ∧
  (∀ (w : CmdWord) (s : State), ∃ (t : State) (r : RespWord),
    performCommand w s = .next t ∧ t.responses = s.responses ++ [r] ∧ (respErr r ≠ 0 → respData r = 0))

/-- Operand values are checked before anything else (R121): an ill-formed command changes only `last_err`. -/
def Obligations.IllegalOperandsFail : Prop :=
  ∀ (i : Instr) (s : State), WellFormed i = false → exec i s = .next (s.fail .invalidArgument)

/-- "a command that fails with any code other than LinkNotOpen or WriteFailed leaves every field unchanged except
`S.last_err`" (R124). -/
def Obligations.FailuresArePrecise : Prop :=
  ∀ (i : Instr) (s t : State) (e : ErrCode) (d : Data),
    exec i s = .next t → t.responses = s.responses ++ [respWord e d] → e ≠ .ok → e ≠ .linkNotOpen → e ≠ .writeFailed →
    t.blockOnly = { s.blockOnly with lastErr := e }

/-- The commands that only read (R46): they make no request and change no state but `last_err` on a failure, so the same
command again gives the same response. -/
def Obligations.ReadingHasNoSideEffect : Prop :=
  ∀ (i : Instr) (s : State),
    i.opcode ∈ [.nop, .regRead, .wpRead, .wpCount, .cacheRead, .curveEval] →
    ∃ (t u : State) (e : ErrCode) (d : Data),
      exec i s = .next t ∧ exec i t = .next u ∧
      t = { s with lastErr := if e = .ok then s.lastErr else e, responses := s.responses ++ [respWord e d] } ∧
      u = { t with responses := t.responses ++ [respWord e d] }

/-- Which steps change the link state, from where and to where (R101, R20). -/
def Obligations.OnlyTheSchedulerChangesTheLink : Prop :=
  ∀ s t : State, step s = .next t → t.link ≠ s.link →
    match s.takeMove.1 with
    | .strobe | .present _ => False
    | .reset => t.link = .closed
    | .tick => s.link = .openStreaming ∧ t.link = .closed
    | .command => ∃ w, s.cmd = some w ∧
        ((decode w = .ok .connect ∧ s.link = .closed ∧ t.link = .openIdle) ∨
         (decode w = .ok .start ∧ (s.link = .closed ∧ t.link = .openStreaming ∨
            s.link = .openIdle ∧ (t.link = .openStreaming ∨ t.link = .closed))) ∨
         (decode w = .ok .stop ∧ t.link = .closed))

/-- Who writes the cursor (R24, R18): a START that begins a stream, to 0; a tick, by one; reset. -/
def Obligations.OnlyStartAndTickMoveTheCursor : Prop :=
  ∀ s t : State, step s = .next t → t.cursor ≠ s.cursor →
    match s.takeMove.1 with
    | .strobe | .present _ => False
    | .reset => t.cursor = 0
    | .tick => t.cursor = s.cursor + 1 ∧ s.link = .openStreaming ∧ t.link = .openStreaming
    | .command => (∃ w, s.cmd = some w ∧ decode w = .ok .start) ∧ t.cursor = 0 ∧ t.link = .openStreaming

/-- The cache is a snapshot (R50, R54): no step but a START and reset changes a cache entry, `step_count`, `rmax` or
`curve_valid`; in particular no waypoint edit, SET_MODE or SET_FREQ does. -/
def Obligations.OnlyStartRebuildsTheCache : Prop :=
  ∀ s t : State, step s = .next t →
    (t.cache = s.cache ∧ t.stepCount = s.stepCount ∧ t.rmax = s.rmax ∧ t.curveValid = s.curveValid) ∨
    s.takeMove.1 = .reset ∨
    (s.takeMove.1 = .command ∧ ∃ w, s.cmd = some w ∧ decode w = .ok .start)

/-- Event bits are sticky (R29): a step that is neither EVT_CLEAR nor reset leaves every set bit set. -/
def Obligations.EventsStayUntilCleared : Prop :=
  ∀ s t : State, step s = .next t →
    (t.events &&& s.events = s.events) ∨ s.takeMove.1 = .reset ∨
    (s.takeMove.1 = .command ∧ ∃ w m, s.cmd = some w ∧ decode w = .ok (.evtClear m))

/-- The invariant holds after reset. -/
def Obligations.InvariantAtReset : Prop := Inv State.reset ∧ HistoryOf State.reset.history State.reset.link

/-- Every step keeps the invariant (R34, R35, R33, R22, R29, R30, R25, R18): the canonical forms of the waypoint memory
and of the cache, the timer's and the registers' ranges, the cursor's bound while streaming. -/
def Obligations.StepKeepsTheInvariant : Prop := ∀ s t : State, Inv s → step s = .next t → Inv t

/-- Every step keeps the output history one that the link state machine allows, leading to the link state held (R101, R53,
R102): so every frame of a run follows its start sequence, and after a stop's idle frame and close nothing is sent until
an open. Reset, which empties the history, is no exception. -/
def Obligations.StepKeepsTheHistoryLegal : Prop :=
  ∀ s t : State, HistoryOf s.history s.link → step s = .next t → HistoryOf t.history t.link

/-- What reaches the wire (R100, R94, R97): in a legal history every write is the start sequence or the frame of some eight
values, and its bytes on the wire are all of them, none, or a prefix, by its outcome. -/
def Obligations.WritesAreFramesOrStartSequences : Prop :=
  ∀ (h : List TransportEvent) (l : LinkState) (bytes : List Byte) (w : WriteOutcome),
    HistoryOf h l → .wrote bytes w ∈ h →
    (bytes = [0xFF, 0x00, 0x01, 0x00, 0x00, 0x52, 0xEE] ∨ ∃ v : Vector Int 8, bytes = frame v) ∧
    match w with
      | .ok => (TransportEvent.wrote bytes w).wireBytes = bytes
      | .notOpen => (TransportEvent.wrote bytes w).wireBytes = []
      | .failed _ => ∃ lost, bytes = (TransportEvent.wrote bytes w).wireBytes ++ lost

/-- "no rule reads the history back" (R39), nor the responses (R62): a step from a state with other records does the same
to everything else and adds the same to the records. -/
def Obligations.RecordsAreNeverReadBack : Prop :=
  ∀ (s t : State) (h : List TransportEvent) (r : List RespWord), s.takeMove.1 ≠ .reset → step s = .next t →
    step { s with history := h ++ s.history, responses := r ++ s.responses } =
      .next { t with history := h ++ t.history, responses := r ++ t.responses }

/-- What the stream sends does not depend on the live waypoints, mode, frequency, staleness, CRC register or event mask
(R50, R27, R28, R110): a tick with any of them changed changes the same fields in the same way. -/
def Obligations.TickIgnoresLiveEdits : Prop :=
  ∀ (s : State) (wp : Vector (List Waypoint) 8) (m : Mode) (f : BitVec 16) (p b : BitVec 32) (st : Bool) (c : Byte)
    (en : BitVec 16),
    { s with wp := wp, mode := m, freq := f, port := p, baud := b, cacheStale := st, crc := c, eventEn := en }.tick =
      { s.tick with wp := wp, mode := m, freq := f, port := p, baud := b, cacheStale := st, crc := c, eventEn := en }

/-- "stop wins" (R111, R108): with a tick pending and a STOP waiting, a tick move before and after the command does
nothing, and the history gains only the idle frame and the close. -/
def Obligations.StopWinsOverAPendingTick : Prop :=
  ∀ (s : State) (rest : List Move), s.link = .openStreaming → s.tickPending = true →
    s.cmd = some 0xE800000000000000 → s.sched = [.tick, .command, .tick] ++ rest →
    ∃ t, Sys2Proof.core.run 3 s = .next t ∧ t.link = .closed ∧ t.tickPending = false ∧
      t.history = s.history ++ [.wrote idleFrame s.nextWrite, .closed]

/-- The end of a run (R112, R110): a step that takes the block out of Open-Streaming is a STOP, a tick that sets RUN_DONE,
a tick that sets FORCED_STOP, or reset. -/
def Obligations.WhatEndsARun : Prop :=
  ∀ s t : State, step s = .next t → s.link = .openStreaming → t.link ≠ .openStreaming →
    t.link = .closed ∧
    (s.takeMove.1 = .reset ∨
     (s.takeMove.1 = .command ∧ ∃ w, s.cmd = some w ∧ decode w = .ok .stop) ∨
     (s.takeMove.1 = .tick ∧ s.stepCount < s.cursor ∧ t.events = s.events ||| 0x0001) ∨
     (s.takeMove.1 = .tick ∧ s.cursor ≤ s.stepCount ∧ t.events = s.events ||| 0x0002))

/-- A whole run (R112, R110, R109, R143): from the state a START leaves, with no host command and every write answered
`Ok`, `step_count + 2` intervals send the `step_count` data frames in cursor order, one all-idle frame, the stop's idle
frame and a close, and end Closed with RUN_DONE set and the cursor at `step_count + 1`. -/
def Obligations.AWholeRunSendsEverySample : Prop :=
  ∀ (s : State) (n : Nat) (more : List WriteOutcome), Inv s → s.link = .openStreaming → s.stepCount.toNat = n →
    s.cursor = 0 → s.tickCtr = 0 → s.tickPending = false → s.cmd = none →
    s.writeIn = List.replicate (n + 2) .ok ++ more →
    ∃ v : Nat → Vector Int 8,
      (∀ k < n, ∀ ch : Chan,
        if s.curveValid.getLsbD ch.val then ∃ x : Sample, (s.cache[ch])[k]? = some x ∧ (v k)[ch] = (x.toNat : Int)
        else (v k)[ch] = 1500) ∧
      intervals (n + 2) s = { s with
        link := .closed, cursor := BitVec.ofNat 32 (n + 1), events := s.events ||| 0x0001, writeIn := more
        history := s.history ++ (List.range n).map (fun k => .wrote (frame (v k)) .ok) ++
          [.wrote idleFrame .ok, .wrote idleFrame .ok, .closed] }

/-- Lines of the assembler (R65) and the words they give: a time in seconds and a raw one, a register name, a mode name, a
negative PWM, a byte the command will refuse; and the lines the assembler refuses: a time that is no multiple of 1/65536
second, an operand out of its range, a missing operand. How a line's text is split is not modelled (log 13). -/
def Obligations.AssembledLines : Prop :=
  (assemble "WP_ADD" [.number 0, .number 10, .number 1900]).map encode = some 0x4000076C000A0000 ∧
  assemble "WP_ADD" [.number 0, .rawTime 0x000A0000, .number 1900] = assemble "WP_ADD" [.number 0, .number 10, .number 1900] ∧
  (assemble "WP_ADD" [.number 7, .number (1 / 4), .number (-1)]).map encode = some 0x4700FFFF00004000 ∧
  (assemble "REG_READ" [.name "FREQ"]).map encode = some 0x0802000000000000 ∧
  (assemble "SET_MODE" [.name "polynomial"]).map encode = some 0x8000000200000000 ∧
  assemble "CRC_FEED" [.number 256] = some (.crcFeed 256) ∧
  assemble "WP_ADD" [.number 0, .number (1 / 10), .number 1900] = none ∧
  assemble "WP_ADD" [.number 0, .number 65536, .number 1900] = none ∧
  assemble "WP_COUNT" [.number 8] = none ∧
  assemble "WP_READ" [.number 0] = none

/-- The `save` and `load` sequences of R66 (S9). `save` in a legal waypoint memory: its responses are the mode, the
frequency, and for each channel the count and every waypoint; nothing else changes. `load` from any waypoint memory, for any legal
snapshot and however the host polls `WP_COUNT` while it removes: clearing a channel succeeds, empties that channel alone
and ends with `WP_COUNT` returning 0; the whole sequence succeeds, and the waypoints, the mode and the frequency are the
snapshot's. The order of channels and waypoints is the model's choice (log 17). -/
def Obligations.SaveAndLoadASnapshot : Prop :=
  (∀ (s : State) (counts : Vector Nat 8), WpWf s → (∀ ch : Chan, counts[ch] = (s.wpAt ch).length) →
    execAll (saveProgram counts) s = .next { s with
      responses := s.responses ++
        ([respWord .ok (s.mode.code.setWidth 56), respWord .ok (s.freq.setWidth 56)] ++
          allChans.flatMap (fun ch => respWord .ok (BitVec.ofNat 56 (s.wpAt ch).length) ::
            (s.wpAt ch).map (fun w => respWord .ok ((0 : BitVec 8) ++ w.pwm ++ w.time)))) }) ∧
  (∀ (s : State) (ch : Chan) (runs : List Nat), runs ≠ [] → runs.sum = (s.wpAt ch).length →
    ∃ t rs, execAll (clearChannel ch runs) s = .next t ∧ t.wpAt ch = [] ∧
      (∀ ch', ch' ≠ ch → t.wpAt ch' = s.wpAt ch') ∧ t.lastErr = s.lastErr ∧
      t.responses = s.responses ++ rs ++ [respWord .ok 0]) ∧
  ∀ (s : State) (snap : Snapshot) (runs : Vector (List Nat) 8),
    (∀ ch : Chan, runs[ch] ≠ [] ∧ runs[ch].sum = (s.wpAt ch).length) → snap.freq ≠ 0 →
    (∀ ch : Chan, snap.wp[ch].Pairwise (fun a b => a.time < b.time) ∧ snap.wp[ch].length ≤ 256) →
    ∃ t, execAll (loadProgram runs snap) s = .next t ∧ t.wp = snap.wp ∧ t.mode = snap.mode ∧ t.freq = snap.freq ∧
      t.lastErr = s.lastErr ∧ t.history = s.history ∧ t.link = s.link
end

