-- ==== Sys2Proof/Laws/State.lean ====
section
/-! SUPPORT. What each shared update does to each field of State, one lemma per field per update, true by rfl. -/

namespace Sys2Proof.Machine

section Respond

variable (s : State)

@[simp] theorem respond_link (e : ErrCode) (d : Data) : (s.respond e d).link = s.link := rfl
@[simp] theorem respond_mode (e : ErrCode) (d : Data) : (s.respond e d).mode = s.mode := rfl
@[simp] theorem respond_freq (e : ErrCode) (d : Data) : (s.respond e d).freq = s.freq := rfl
@[simp] theorem respond_port (e : ErrCode) (d : Data) : (s.respond e d).port = s.port := rfl
@[simp] theorem respond_baud (e : ErrCode) (d : Data) : (s.respond e d).baud = s.baud := rfl
@[simp] theorem respond_cursor (e : ErrCode) (d : Data) : (s.respond e d).cursor = s.cursor := rfl
@[simp] theorem respond_stepCount (e : ErrCode) (d : Data) : (s.respond e d).stepCount = s.stepCount := rfl
@[simp] theorem respond_rmax (e : ErrCode) (d : Data) : (s.respond e d).rmax = s.rmax := rfl
@[simp] theorem respond_curveValid (e : ErrCode) (d : Data) : (s.respond e d).curveValid = s.curveValid := rfl
@[simp] theorem respond_cacheStale (e : ErrCode) (d : Data) : (s.respond e d).cacheStale = s.cacheStale := rfl
@[simp] theorem respond_crc (e : ErrCode) (d : Data) : (s.respond e d).crc = s.crc := rfl
@[simp] theorem respond_events (e : ErrCode) (d : Data) : (s.respond e d).events = s.events := rfl
@[simp] theorem respond_eventEn (e : ErrCode) (d : Data) : (s.respond e d).eventEn = s.eventEn := rfl
@[simp] theorem respond_lastErr (e : ErrCode) (d : Data) : (s.respond e d).lastErr = s.lastErr := rfl
@[simp] theorem respond_tickCtr (e : ErrCode) (d : Data) : (s.respond e d).tickCtr = s.tickCtr := rfl
@[simp] theorem respond_tickPending (e : ErrCode) (d : Data) : (s.respond e d).tickPending = s.tickPending := rfl
@[simp] theorem respond_wp (e : ErrCode) (d : Data) : (s.respond e d).wp = s.wp := rfl
@[simp] theorem respond_cache (e : ErrCode) (d : Data) : (s.respond e d).cache = s.cache := rfl
@[simp] theorem respond_history (e : ErrCode) (d : Data) : (s.respond e d).history = s.history := rfl
@[simp] theorem respond_responses (e : ErrCode) (d : Data) : (s.respond e d).responses = s.responses ++ [respWord e d] := rfl
@[simp] theorem respond_cmd (e : ErrCode) (d : Data) : (s.respond e d).cmd = s.cmd := rfl
@[simp] theorem respond_sched (e : ErrCode) (d : Data) : (s.respond e d).sched = s.sched := rfl
@[simp] theorem respond_openIn (e : ErrCode) (d : Data) : (s.respond e d).openIn = s.openIn := rfl
@[simp] theorem respond_writeIn (e : ErrCode) (d : Data) : (s.respond e d).writeIn = s.writeIn := rfl
@[simp] theorem respond_draws (e : ErrCode) (d : Data) : (s.respond e d).draws = s.draws := rfl

end Respond

section Fail

variable (s : State)

@[simp] theorem fail_link (e : ErrCode) : (s.fail e).link = s.link := rfl
@[simp] theorem fail_mode (e : ErrCode) : (s.fail e).mode = s.mode := rfl
@[simp] theorem fail_freq (e : ErrCode) : (s.fail e).freq = s.freq := rfl
@[simp] theorem fail_port (e : ErrCode) : (s.fail e).port = s.port := rfl
@[simp] theorem fail_baud (e : ErrCode) : (s.fail e).baud = s.baud := rfl
@[simp] theorem fail_cursor (e : ErrCode) : (s.fail e).cursor = s.cursor := rfl
@[simp] theorem fail_stepCount (e : ErrCode) : (s.fail e).stepCount = s.stepCount := rfl
@[simp] theorem fail_rmax (e : ErrCode) : (s.fail e).rmax = s.rmax := rfl
@[simp] theorem fail_curveValid (e : ErrCode) : (s.fail e).curveValid = s.curveValid := rfl
@[simp] theorem fail_cacheStale (e : ErrCode) : (s.fail e).cacheStale = s.cacheStale := rfl
@[simp] theorem fail_crc (e : ErrCode) : (s.fail e).crc = s.crc := rfl
@[simp] theorem fail_events (e : ErrCode) : (s.fail e).events = s.events := rfl
@[simp] theorem fail_eventEn (e : ErrCode) : (s.fail e).eventEn = s.eventEn := rfl
@[simp] theorem fail_lastErr (e : ErrCode) : (s.fail e).lastErr = e := rfl
@[simp] theorem fail_tickCtr (e : ErrCode) : (s.fail e).tickCtr = s.tickCtr := rfl
@[simp] theorem fail_tickPending (e : ErrCode) : (s.fail e).tickPending = s.tickPending := rfl
@[simp] theorem fail_wp (e : ErrCode) : (s.fail e).wp = s.wp := rfl
@[simp] theorem fail_cache (e : ErrCode) : (s.fail e).cache = s.cache := rfl
@[simp] theorem fail_history (e : ErrCode) : (s.fail e).history = s.history := rfl
@[simp] theorem fail_responses (e : ErrCode) : (s.fail e).responses = s.responses ++ [respWord e 0] := rfl
@[simp] theorem fail_cmd (e : ErrCode) : (s.fail e).cmd = s.cmd := rfl
@[simp] theorem fail_sched (e : ErrCode) : (s.fail e).sched = s.sched := rfl
@[simp] theorem fail_openIn (e : ErrCode) : (s.fail e).openIn = s.openIn := rfl
@[simp] theorem fail_writeIn (e : ErrCode) : (s.fail e).writeIn = s.writeIn := rfl
@[simp] theorem fail_draws (e : ErrCode) : (s.fail e).draws = s.draws := rfl

end Fail

section Record

variable (s : State)

@[simp] theorem record_link (e : TransportEvent) : (s.record e).link = s.link := rfl
@[simp] theorem record_mode (e : TransportEvent) : (s.record e).mode = s.mode := rfl
@[simp] theorem record_freq (e : TransportEvent) : (s.record e).freq = s.freq := rfl
@[simp] theorem record_port (e : TransportEvent) : (s.record e).port = s.port := rfl
@[simp] theorem record_baud (e : TransportEvent) : (s.record e).baud = s.baud := rfl
@[simp] theorem record_cursor (e : TransportEvent) : (s.record e).cursor = s.cursor := rfl
@[simp] theorem record_stepCount (e : TransportEvent) : (s.record e).stepCount = s.stepCount := rfl
@[simp] theorem record_rmax (e : TransportEvent) : (s.record e).rmax = s.rmax := rfl
@[simp] theorem record_curveValid (e : TransportEvent) : (s.record e).curveValid = s.curveValid := rfl
@[simp] theorem record_cacheStale (e : TransportEvent) : (s.record e).cacheStale = s.cacheStale := rfl
@[simp] theorem record_crc (e : TransportEvent) : (s.record e).crc = s.crc := rfl
@[simp] theorem record_events (e : TransportEvent) : (s.record e).events = s.events := rfl
@[simp] theorem record_eventEn (e : TransportEvent) : (s.record e).eventEn = s.eventEn := rfl
@[simp] theorem record_lastErr (e : TransportEvent) : (s.record e).lastErr = s.lastErr := rfl
@[simp] theorem record_tickCtr (e : TransportEvent) : (s.record e).tickCtr = s.tickCtr := rfl
@[simp] theorem record_tickPending (e : TransportEvent) : (s.record e).tickPending = s.tickPending := rfl
@[simp] theorem record_wp (e : TransportEvent) : (s.record e).wp = s.wp := rfl
@[simp] theorem record_cache (e : TransportEvent) : (s.record e).cache = s.cache := rfl
@[simp] theorem record_history (e : TransportEvent) : (s.record e).history = s.history ++ [e] := rfl
@[simp] theorem record_responses (e : TransportEvent) : (s.record e).responses = s.responses := rfl
@[simp] theorem record_cmd (e : TransportEvent) : (s.record e).cmd = s.cmd := rfl
@[simp] theorem record_sched (e : TransportEvent) : (s.record e).sched = s.sched := rfl
@[simp] theorem record_openIn (e : TransportEvent) : (s.record e).openIn = s.openIn := rfl
@[simp] theorem record_writeIn (e : TransportEvent) : (s.record e).writeIn = s.writeIn := rfl
@[simp] theorem record_draws (e : TransportEvent) : (s.record e).draws = s.draws := rfl

end Record

section Dropopen

variable (s : State)

@[simp] theorem dropOpen_link : (s.dropOpen).link = s.link := rfl
@[simp] theorem dropOpen_mode : (s.dropOpen).mode = s.mode := rfl
@[simp] theorem dropOpen_freq : (s.dropOpen).freq = s.freq := rfl
@[simp] theorem dropOpen_port : (s.dropOpen).port = s.port := rfl
@[simp] theorem dropOpen_baud : (s.dropOpen).baud = s.baud := rfl
@[simp] theorem dropOpen_cursor : (s.dropOpen).cursor = s.cursor := rfl
@[simp] theorem dropOpen_stepCount : (s.dropOpen).stepCount = s.stepCount := rfl
@[simp] theorem dropOpen_rmax : (s.dropOpen).rmax = s.rmax := rfl
@[simp] theorem dropOpen_curveValid : (s.dropOpen).curveValid = s.curveValid := rfl
@[simp] theorem dropOpen_cacheStale : (s.dropOpen).cacheStale = s.cacheStale := rfl
@[simp] theorem dropOpen_crc : (s.dropOpen).crc = s.crc := rfl
@[simp] theorem dropOpen_events : (s.dropOpen).events = s.events := rfl
@[simp] theorem dropOpen_eventEn : (s.dropOpen).eventEn = s.eventEn := rfl
@[simp] theorem dropOpen_lastErr : (s.dropOpen).lastErr = s.lastErr := rfl
@[simp] theorem dropOpen_tickCtr : (s.dropOpen).tickCtr = s.tickCtr := rfl
@[simp] theorem dropOpen_tickPending : (s.dropOpen).tickPending = s.tickPending := rfl
@[simp] theorem dropOpen_wp : (s.dropOpen).wp = s.wp := rfl
@[simp] theorem dropOpen_cache : (s.dropOpen).cache = s.cache := rfl
@[simp] theorem dropOpen_history : (s.dropOpen).history = s.history := rfl
@[simp] theorem dropOpen_responses : (s.dropOpen).responses = s.responses := rfl
@[simp] theorem dropOpen_cmd : (s.dropOpen).cmd = s.cmd := rfl
@[simp] theorem dropOpen_sched : (s.dropOpen).sched = s.sched := rfl
@[simp] theorem dropOpen_openIn : (s.dropOpen).openIn = s.openIn.tail := rfl
@[simp] theorem dropOpen_writeIn : (s.dropOpen).writeIn = s.writeIn := rfl
@[simp] theorem dropOpen_draws : (s.dropOpen).draws = (if s.openIn.isEmpty then s.draws + 1 else s.draws) := rfl

end Dropopen

section Dropwrite

variable (s : State)

@[simp] theorem dropWrite_link : (s.dropWrite).link = s.link := rfl
@[simp] theorem dropWrite_mode : (s.dropWrite).mode = s.mode := rfl
@[simp] theorem dropWrite_freq : (s.dropWrite).freq = s.freq := rfl
@[simp] theorem dropWrite_port : (s.dropWrite).port = s.port := rfl
@[simp] theorem dropWrite_baud : (s.dropWrite).baud = s.baud := rfl
@[simp] theorem dropWrite_cursor : (s.dropWrite).cursor = s.cursor := rfl
@[simp] theorem dropWrite_stepCount : (s.dropWrite).stepCount = s.stepCount := rfl
@[simp] theorem dropWrite_rmax : (s.dropWrite).rmax = s.rmax := rfl
@[simp] theorem dropWrite_curveValid : (s.dropWrite).curveValid = s.curveValid := rfl
@[simp] theorem dropWrite_cacheStale : (s.dropWrite).cacheStale = s.cacheStale := rfl
@[simp] theorem dropWrite_crc : (s.dropWrite).crc = s.crc := rfl
@[simp] theorem dropWrite_events : (s.dropWrite).events = s.events := rfl
@[simp] theorem dropWrite_eventEn : (s.dropWrite).eventEn = s.eventEn := rfl
@[simp] theorem dropWrite_lastErr : (s.dropWrite).lastErr = s.lastErr := rfl
@[simp] theorem dropWrite_tickCtr : (s.dropWrite).tickCtr = s.tickCtr := rfl
@[simp] theorem dropWrite_tickPending : (s.dropWrite).tickPending = s.tickPending := rfl
@[simp] theorem dropWrite_wp : (s.dropWrite).wp = s.wp := rfl
@[simp] theorem dropWrite_cache : (s.dropWrite).cache = s.cache := rfl
@[simp] theorem dropWrite_history : (s.dropWrite).history = s.history := rfl
@[simp] theorem dropWrite_responses : (s.dropWrite).responses = s.responses := rfl
@[simp] theorem dropWrite_cmd : (s.dropWrite).cmd = s.cmd := rfl
@[simp] theorem dropWrite_sched : (s.dropWrite).sched = s.sched := rfl
@[simp] theorem dropWrite_openIn : (s.dropWrite).openIn = s.openIn := rfl
@[simp] theorem dropWrite_writeIn : (s.dropWrite).writeIn = s.writeIn.tail := rfl
@[simp] theorem dropWrite_draws : (s.dropWrite).draws = (if s.writeIn.isEmpty then s.draws + 1 else s.draws) := rfl

end Dropwrite

section Raise

variable (s : State)

@[simp] theorem raise_link (e : Event) : (s.raise e).link = s.link := rfl
@[simp] theorem raise_mode (e : Event) : (s.raise e).mode = s.mode := rfl
@[simp] theorem raise_freq (e : Event) : (s.raise e).freq = s.freq := rfl
@[simp] theorem raise_port (e : Event) : (s.raise e).port = s.port := rfl
@[simp] theorem raise_baud (e : Event) : (s.raise e).baud = s.baud := rfl
@[simp] theorem raise_cursor (e : Event) : (s.raise e).cursor = s.cursor := rfl
@[simp] theorem raise_stepCount (e : Event) : (s.raise e).stepCount = s.stepCount := rfl
@[simp] theorem raise_rmax (e : Event) : (s.raise e).rmax = s.rmax := rfl
@[simp] theorem raise_curveValid (e : Event) : (s.raise e).curveValid = s.curveValid := rfl
@[simp] theorem raise_cacheStale (e : Event) : (s.raise e).cacheStale = s.cacheStale := rfl
@[simp] theorem raise_crc (e : Event) : (s.raise e).crc = s.crc := rfl
@[simp] theorem raise_events (e : Event) : (s.raise e).events = s.events ||| e.mask := rfl
@[simp] theorem raise_eventEn (e : Event) : (s.raise e).eventEn = s.eventEn := rfl
@[simp] theorem raise_lastErr (e : Event) : (s.raise e).lastErr = s.lastErr := rfl
@[simp] theorem raise_tickCtr (e : Event) : (s.raise e).tickCtr = s.tickCtr := rfl
@[simp] theorem raise_tickPending (e : Event) : (s.raise e).tickPending = s.tickPending := rfl
@[simp] theorem raise_wp (e : Event) : (s.raise e).wp = s.wp := rfl
@[simp] theorem raise_cache (e : Event) : (s.raise e).cache = s.cache := rfl
@[simp] theorem raise_history (e : Event) : (s.raise e).history = s.history := rfl
@[simp] theorem raise_responses (e : Event) : (s.raise e).responses = s.responses := rfl
@[simp] theorem raise_cmd (e : Event) : (s.raise e).cmd = s.cmd := rfl
@[simp] theorem raise_sched (e : Event) : (s.raise e).sched = s.sched := rfl
@[simp] theorem raise_openIn (e : Event) : (s.raise e).openIn = s.openIn := rfl
@[simp] theorem raise_writeIn (e : Event) : (s.raise e).writeIn = s.writeIn := rfl
@[simp] theorem raise_draws (e : Event) : (s.raise e).draws = s.draws := rfl

end Raise

section Markstale

variable (s : State)

@[simp] theorem markStale_link : (s.markStale).link = s.link := rfl
@[simp] theorem markStale_mode : (s.markStale).mode = s.mode := rfl
@[simp] theorem markStale_freq : (s.markStale).freq = s.freq := rfl
@[simp] theorem markStale_port : (s.markStale).port = s.port := rfl
@[simp] theorem markStale_baud : (s.markStale).baud = s.baud := rfl
@[simp] theorem markStale_cursor : (s.markStale).cursor = s.cursor := rfl
@[simp] theorem markStale_stepCount : (s.markStale).stepCount = s.stepCount := rfl
@[simp] theorem markStale_rmax : (s.markStale).rmax = s.rmax := rfl
@[simp] theorem markStale_curveValid : (s.markStale).curveValid = s.curveValid := rfl
@[simp] theorem markStale_cacheStale : (s.markStale).cacheStale = true := rfl
@[simp] theorem markStale_crc : (s.markStale).crc = s.crc := rfl
@[simp] theorem markStale_events : (s.markStale).events = s.events := rfl
@[simp] theorem markStale_eventEn : (s.markStale).eventEn = s.eventEn := rfl
@[simp] theorem markStale_lastErr : (s.markStale).lastErr = s.lastErr := rfl
@[simp] theorem markStale_tickCtr : (s.markStale).tickCtr = s.tickCtr := rfl
@[simp] theorem markStale_tickPending : (s.markStale).tickPending = s.tickPending := rfl
@[simp] theorem markStale_wp : (s.markStale).wp = s.wp := rfl
@[simp] theorem markStale_cache : (s.markStale).cache = s.cache := rfl
@[simp] theorem markStale_history : (s.markStale).history = s.history := rfl
@[simp] theorem markStale_responses : (s.markStale).responses = s.responses := rfl
@[simp] theorem markStale_cmd : (s.markStale).cmd = s.cmd := rfl
@[simp] theorem markStale_sched : (s.markStale).sched = s.sched := rfl
@[simp] theorem markStale_openIn : (s.markStale).openIn = s.openIn := rfl
@[simp] theorem markStale_writeIn : (s.markStale).writeIn = s.writeIn := rfl
@[simp] theorem markStale_draws : (s.markStale).draws = s.draws := rfl

end Markstale

section Setwp

variable (s : State)

@[simp] theorem setWp_link (ch : Chan) (l : List Waypoint) : (s.setWp ch l).link = s.link := rfl
@[simp] theorem setWp_mode (ch : Chan) (l : List Waypoint) : (s.setWp ch l).mode = s.mode := rfl
@[simp] theorem setWp_freq (ch : Chan) (l : List Waypoint) : (s.setWp ch l).freq = s.freq := rfl
@[simp] theorem setWp_port (ch : Chan) (l : List Waypoint) : (s.setWp ch l).port = s.port := rfl
@[simp] theorem setWp_baud (ch : Chan) (l : List Waypoint) : (s.setWp ch l).baud = s.baud := rfl
@[simp] theorem setWp_cursor (ch : Chan) (l : List Waypoint) : (s.setWp ch l).cursor = s.cursor := rfl
@[simp] theorem setWp_stepCount (ch : Chan) (l : List Waypoint) : (s.setWp ch l).stepCount = s.stepCount := rfl
@[simp] theorem setWp_rmax (ch : Chan) (l : List Waypoint) : (s.setWp ch l).rmax = s.rmax := rfl
@[simp] theorem setWp_curveValid (ch : Chan) (l : List Waypoint) : (s.setWp ch l).curveValid = s.curveValid := rfl
@[simp] theorem setWp_cacheStale (ch : Chan) (l : List Waypoint) : (s.setWp ch l).cacheStale = true := rfl
@[simp] theorem setWp_crc (ch : Chan) (l : List Waypoint) : (s.setWp ch l).crc = s.crc := rfl
@[simp] theorem setWp_events (ch : Chan) (l : List Waypoint) : (s.setWp ch l).events = s.events := rfl
@[simp] theorem setWp_eventEn (ch : Chan) (l : List Waypoint) : (s.setWp ch l).eventEn = s.eventEn := rfl
@[simp] theorem setWp_lastErr (ch : Chan) (l : List Waypoint) : (s.setWp ch l).lastErr = s.lastErr := rfl
@[simp] theorem setWp_tickCtr (ch : Chan) (l : List Waypoint) : (s.setWp ch l).tickCtr = s.tickCtr := rfl
@[simp] theorem setWp_tickPending (ch : Chan) (l : List Waypoint) : (s.setWp ch l).tickPending = s.tickPending := rfl
@[simp] theorem setWp_wp (ch : Chan) (l : List Waypoint) : (s.setWp ch l).wp = s.wp.set ch.val l ch.isLt := rfl
@[simp] theorem setWp_cache (ch : Chan) (l : List Waypoint) : (s.setWp ch l).cache = s.cache := rfl
@[simp] theorem setWp_history (ch : Chan) (l : List Waypoint) : (s.setWp ch l).history = s.history := rfl
@[simp] theorem setWp_responses (ch : Chan) (l : List Waypoint) : (s.setWp ch l).responses = s.responses := rfl
@[simp] theorem setWp_cmd (ch : Chan) (l : List Waypoint) : (s.setWp ch l).cmd = s.cmd := rfl
@[simp] theorem setWp_sched (ch : Chan) (l : List Waypoint) : (s.setWp ch l).sched = s.sched := rfl
@[simp] theorem setWp_openIn (ch : Chan) (l : List Waypoint) : (s.setWp ch l).openIn = s.openIn := rfl
@[simp] theorem setWp_writeIn (ch : Chan) (l : List Waypoint) : (s.setWp ch l).writeIn = s.writeIn := rfl
@[simp] theorem setWp_draws (ch : Chan) (l : List Waypoint) : (s.setWp ch l).draws = s.draws := rfl

end Setwp

/-! The derived reads depend on the fields they read. -/

@[simp] theorem wpAt_respond (s : State) (e : ErrCode) (d : Data) (ch : Chan) : (s.respond e d).wpAt ch = s.wpAt ch := rfl
@[simp] theorem wpAt_fail (s : State) (e : ErrCode) (ch : Chan) : (s.fail e).wpAt ch = s.wpAt ch := rfl
@[simp] theorem validAt_respond (s : State) (e : ErrCode) (d : Data) (ch : Chan) :
    (s.respond e d).validAt ch = s.validAt ch := rfl
@[simp] theorem validAt_fail (s : State) (e : ErrCode) (ch : Chan) : (s.fail e).validAt ch = s.validAt ch := rfl

@[simp] theorem wpAt_setWp_same (s : State) (ch : Chan) (l : List Waypoint) : (s.setWp ch l).wpAt ch = l := by
  simp [State.wpAt, State.setWp, State.markStale]

theorem wpAt_setWp_other (s : State) {ch ch' : Chan} (l : List Waypoint) (h : ch ≠ ch') :
    (s.setWp ch l).wpAt ch' = s.wpAt ch' := by
  simp only [State.wpAt, State.setWp, State.markStale, Fin.getElem_fin]
  exact Vector.getElem_set_ne (h := fun e => h (Fin.ext e)) ..

theorem wpAt_setWp (s : State) (ch ch' : Chan) (l : List Waypoint) :
    (s.setWp ch l).wpAt ch' = if ch = ch' then l else s.wpAt ch' := by
  split
  · subst_vars; simp
  · exact wpAt_setWp_other s l ‹_›

/-- A table over the channels, read at a channel. -/
@[simp] theorem perChan_getElem {α : Type} (f : Chan → α) (ch : Chan) : (perChan f)[ch] = f ch := by
  revert ch f; intro f ch; fin_cases ch <;> rfl

/-- A channel mask, read at a channel. -/
@[simp] theorem chanMask_getLsbD (b : Chan → Bool) (ch : Chan) : (chanMask b).getLsbD ch.val = b ch := by
  simp only [chanMask, BitVec.getLsbD_append, BitVec.getLsbD_ofBool]
  fin_cases ch <;> simp

end Sys2Proof.Machine
end

