-- ==== Sys2Proof/Laws/Ops.lean ====
section
/-! SUPPORT. The shared operations as equations on whole states, one per operation: the transport requests, the stop
procedures, the opening of the link, the moves, and that every command answers a next state. -/

namespace Sys2Proof.Machine

/-- The one response word, its two fields. -/
theorem respErr_respWord (e : ErrCode) (d : Data) : (respWord e d).extractLsb' 56 8 = e.code := by
  apply BitVec.eq_of_getLsbD_eq
  intro i hi
  simp only [respWord, BitVec.getLsbD_extractLsb', BitVec.getLsbD_append, hi]
  simp

theorem respData_respWord (e : ErrCode) (d : Data) : (respWord e d).extractLsb' 0 56 = d := by
  apply BitVec.eq_of_getLsbD_eq
  intro i hi
  simp only [respWord, BitVec.getLsbD_extractLsb', BitVec.getLsbD_append, hi]
  simp [hi]

theorem errCode_inj {e e' : ErrCode} (h : e.code = e'.code) : e = e' := by
  cases e <;> cases e' <;> first | rfl | exact absurd h (by decide)

theorem respWord_inj {e e' : ErrCode} {d d' : Data} : respWord e d = respWord e' d' ↔ e = e' ∧ d = d' := by
  constructor
  · intro h
    refine ⟨errCode_inj ?_, ?_⟩
    · rw [← respErr_respWord e d, h, respErr_respWord]
    · rw [← respData_respWord e d, h, respData_respWord]
  · rintro ⟨rfl, rfl⟩; rfl

/-- `TransportWrite` (spec/45_scheduler.md R100): it takes one answer and adds one entry to the history. -/
theorem transportWrite_eq (s : State) (bytes : List Byte) : s.transportWrite bytes =
    (s.nextWrite, { s.dropWrite with history := s.history ++ [.wrote bytes s.nextWrite] }) := rfl

/-- `TransportOpen` (R100), likewise. -/
theorem transportOpen_eq (s : State) : s.transportOpen =
    (s.nextOpen, { s.dropOpen with history := s.history ++ [.opened s.port s.baud s.nextOpen] }) := rfl

/-- Opening the link (R106, R107). -/
theorem openLink_ok {s : State} (h : s.nextOpen = .ok) : s.openLink =
    (.ok, { s.dropOpen with link := .openIdle, history := s.history ++ [.opened s.port s.baud .ok] }) := by
  unfold State.openLink
  simp [transportOpen_eq, h]

theorem openLink_fail {s : State} (h : s.nextOpen = .fail) : s.openLink =
    (.fail, { s.dropOpen with history := s.history ++ [.opened s.port s.baud .fail] }) := by
  unfold State.openLink
  simp [transportOpen_eq, h]

/-- `stop_sequence()` (R102). -/
theorem stopSequence_eq (s : State) : s.stopSequence = (s.nextWrite, { s.dropWrite with
    tickPending := false, tickCtr := 0, link := .closed
    history := s.history ++ [.wrote idleFrame s.nextWrite, .closed] }) := by
  simp [State.stopSequence, State.transportWrite, State.transportClose, State.record, State.dropWrite, State.nextWrite]

/-- `forced_stop(e)` (R102). -/
theorem forcedStop_eq (s : State) (e : ErrCode) : s.forcedStop e = { s.dropWrite with
    tickPending := false, tickCtr := 0, link := .closed, lastErr := e, events := s.events ||| 0x0002
    history := s.history ++ [.wrote idleFrame s.nextWrite, .closed] } := by
  unfold State.forcedStop
  rw [stopSequence_eq]
  rfl

/-- Every command answers a next state: no meaning stops. -/
theorem exec_total (i : Instr) (s : State) : ∃ t, exec i s = .next t := by
  cases i <;>
    simp only [exec, execNop, execRegRead, execEvtEn, execEvtClear, execCrcClear, execCrcFeed, execWpAdd, execWpUpdate,
      execWpRemove, execWpRead, execWpCount, execSetMode, execCurveEval, execCacheRead, execSetFreq, execSetPort,
      execSetBaud, execConnect, execStart, execStop] <;>
    (repeat' split) <;> exact ⟨_, rfl⟩

/-- Taking the next move touches only `sched` and `draws`. -/
theorem takeMove_eq (s : State) : ∃ ms n, s.takeMove.2 = { s with sched := ms, draws := n } := by
  unfold State.takeMove
  split
  · exact ⟨_, _, rfl⟩
  · rename_i h; exact ⟨s.sched, _, rfl⟩

theorem takeMove_cons {s : State} {m : Move} {ms : List Move} (h : s.sched = m :: ms) :
    s.takeMove = (m, { s with sched := ms }) := by simp [State.takeMove, h]

end Sys2Proof.Machine
end

