-- ==== Sys2Proof/Laws/Waypoint.lean ====
section
/-! SUPPORT. The waypoint operations (spec/41_waypoint.md R72-R76): what a search, an insertion and a removal do to a
channel in its canonical form, strictly rising in time. -/

namespace Sys2Proof.Machine

@[simp] theorem waypointOperand_eq (t : RawTime) (p : RawPwm) : waypointOperand t p = ⟨t, p⟩ := by
  have : (pwmOperand p).setWidth 16 = p := by
    simp only [pwmOperand]
    apply BitVec.eq_of_getLsbD_eq
    intro i hi
    simp [BitVec.getLsbD_signExtend, hi]
    omega
  simp [waypointOperand, this]

theorem findTime_none {l : List Waypoint} {t : RawTime} : findTime l t = none ↔ ∀ w ∈ l, w.time ≠ t := by
  simp [findTime, List.findIdx?_eq_none_iff]

/-- In a channel in canonical form the waypoints before `t` are the first `countBefore l t`. -/
theorem countBefore_spec (l : List Waypoint) (t : RawTime) (h : l.Pairwise (fun a b => a.time < b.time)) :
    (∀ w ∈ l.take (countBefore l t), w.time < t) ∧ (∀ w ∈ l.drop (countBefore l t), ¬ w.time < t) := by
  induction l with
  | nil => simp
  | cons a l ih =>
    rw [List.pairwise_cons] at h
    obtain ⟨ih1, ih2⟩ := ih h.2
    simp only [countBefore] at ih1 ih2 ⊢
    by_cases ha : a.time < t
    · rw [List.countP_cons_of_pos (by simpa using ha)]
      simp only [List.take_succ_cons, List.drop_succ_cons, List.mem_cons, forall_eq_or_imp]
      exact ⟨⟨ha, ih1⟩, ih2⟩
    · rw [List.countP_cons_of_neg (by simpa using ha)]
      have hz : List.countP (fun w => decide (w.time < t)) l = 0 := by
        rw [List.countP_eq_zero]; intro w hw
        have := h.1 w hw
        simp only [decide_eq_true_eq]; intro hh; apply ha; bv_omega
      rw [hz]
      simp only [List.take_zero, List.drop_zero, List.mem_cons, forall_eq_or_imp]
      refine ⟨by simp, ha, ?_⟩
      intro w hw; have := h.1 w hw; intro hh; apply ha; bv_omega

theorem wpInsert_spec (l : List Waypoint) (w : Waypoint) (h : l.Pairwise (fun a b => a.time < b.time)) :
    (wpInsert l w).1.Pairwise (fun a b => a.time < b.time) ∧
    (wpInsert l w).1[(wpInsert l w).2]? = some w ∧
    (∀ u, u ∈ (wpInsert l w).1 ↔ u = w ∨ (u ∈ l ∧ u.time ≠ w.time)) ∧
    (wpInsert l w).1.length = l.length + (if findTime l w.time = none then 1 else 0) := by
  unfold wpInsert
  cases hf : findTime l w.time with
  | none =>
    have hne := findTime_none.1 hf
    obtain ⟨h1, h2⟩ := countBefore_spec l w.time h
    have hle : countBefore l w.time ≤ l.length := List.countP_le_length
    simp only
    refine ⟨?_, ?_, ?_, ?_⟩
    · rw [List.pairwise_append]
      refine ⟨h.sublist (List.take_sublist _ _), ?_, ?_⟩
      · rw [List.pairwise_cons]
        refine ⟨?_, h.sublist (List.drop_sublist _ _)⟩
        intro u hu
        have := h2 u hu; have := hne u (List.mem_of_mem_drop hu)
        bv_omega
      · intro a ha b hb
        have ha' := h1 a ha
        rcases List.mem_cons.1 hb with rfl | hb
        · exact ha'
        · have := h2 b hb; bv_omega
    · rw [List.getElem?_append_right (by simp [hle])]
      simp [hle]
    · intro u
      rw [List.mem_append, List.mem_cons]
      constructor
      · rintro (hu | rfl | hu)
        · exact .inr ⟨List.mem_of_mem_take hu, hne _ (List.mem_of_mem_take hu)⟩
        · exact .inl rfl
        · exact .inr ⟨List.mem_of_mem_drop hu, hne _ (List.mem_of_mem_drop hu)⟩
      · rintro (rfl | ⟨hu, -⟩)
        · exact .inr (.inl rfl)
        · rw [← List.take_append_drop (countBefore l w.time) l, List.mem_append] at hu
          rcases hu with hu | hu
          · exact .inl hu
          · exact .inr (.inr hu)
    · simp; omega
  | some i =>
    simp only [findTime, List.findIdx?_eq_some_iff_getElem] at hf
    obtain ⟨hi, hit, hmin⟩ := hf
    simp only [beq_iff_eq] at hit
    have huniq : ∀ j (hj : j < l.length), l[j].time = w.time → j = i := by
      intro j hj hh
      rcases Nat.lt_trichotomy j i with hlt | heq | hgt
      · have := List.pairwise_iff_getElem.1 h j i hj hi hlt; rw [hh, hit] at this; bv_omega
      · exact heq
      · have := List.pairwise_iff_getElem.1 h i j hi hj hgt; rw [hh, hit] at this; bv_omega
    simp only
    refine ⟨?_, ?_, ?_, ?_⟩
    · rw [List.pairwise_iff_getElem]
      intro a b ha hb hab
      simp only [List.length_set] at ha hb
      have hp := List.pairwise_iff_getElem.1 h
      simp only [List.getElem_set]
      split <;> split
      · omega
      · rename_i h1 h2; subst h1; rw [← hit]; exact hp _ _ _ _ hab
      · rename_i h1 h2; subst h2; rw [← hit]; exact hp _ _ _ _ hab
      · exact hp _ _ _ _ hab
    · simp [hi]
    · intro u
      constructor
      · intro hu
        obtain ⟨j, hj, rfl⟩ := List.mem_iff_getElem.1 hu
        simp only [List.length_set] at hj
        rw [List.getElem_set]
        split
        · exact .inl rfl
        · rename_i hne
          exact .inr ⟨List.getElem_mem hj, fun hh => hne (huniq j hj hh).symm⟩
      · rintro (rfl | ⟨hu, hne⟩)
        · exact List.mem_of_getElem (i := i) (h := by simpa using hi) (by simp)
        · obtain ⟨j, hj, rfl⟩ := List.mem_iff_getElem.1 hu
          have hji : i ≠ j := fun e => hne (by subst e; exact hit)
          exact List.mem_of_getElem (i := j) (h := by simpa using hj) (by simp [hji])
    · simp

/-- A channel in canonical form stays in it when an entry is taken out (R76). -/
theorem eraseIdx_pairwise {l : List Waypoint} (h : l.Pairwise (fun a b => a.time < b.time)) (i : Nat) :
    (l.eraseIdx i).Pairwise (fun a b => a.time < b.time) := h.sublist (List.eraseIdx_sublist _ _)

end Sys2Proof.Machine
end

