-- ==== Sys2Proof/Laws/Effects.lean ====
section
/-! SUPPORT. What a command, a tick, a strobe and a step can do, said once: one inversion lemma each, from which a
whole-machine rule follows by cases. -/

namespace Sys2Proof.Machine

/-! ## The sampler's operations -/

theorem mem_wp (s : State) (l : List Waypoint) : l ∈ s.wp.toList ↔ ∃ ch : Chan, s.wpAt ch = l := by
  simp only [Vector.mem_toList_iff, Vector.mem_iff_getElem]
  constructor
  · rintro ⟨i, hi, rfl⟩; exact ⟨⟨i, hi⟩, rfl⟩
  · rintro ⟨ch, rfl⟩; exact ⟨ch.val, ch.isLt, rfl⟩

theorem allEmpty_iff (s : State) : allEmpty s = true ↔ ∀ ch : Chan, s.wpAt ch = [] := by
  simp only [allEmpty, List.all_eq_true, mem_wp, List.isEmpty_iff, forall_exists_index, forall_apply_eq_imp_iff]

theorem anyEmpty_iff (s : State) : anyEmpty s = true ↔ ∃ ch : Chan, s.wpAt ch = [] := by
  simp only [anyEmpty, List.any_eq_true, mem_wp, List.isEmpty_iff, ↓existsAndEq, true_and]

/-- The rebuild check (spec/43_sampler_cache.md R90) in each of its three cases. -/
theorem rebuildCheck_empty {s : State} (p : Params) (h : ∀ ch : Chan, s.wpAt ch = []) :
    rebuildCheck p s = some .noWaveformData := by simp [rebuildCheck, (allEmpty_iff s).2 h]

theorem rebuildCheck_overflow {s : State} {p : Params} {ch : Chan} (h : s.wpAt ch ≠ [])
    (h2 : p.cacheDepth < stepCountFor s) : rebuildCheck p s = some .cacheOverflow := by
  have : ¬ allEmpty s = true := fun hh => h ((allEmpty_iff s).1 hh ch)
  simp [rebuildCheck, this, h2]

theorem rebuildCheck_ok {s : State} {p : Params} {ch : Chan} (h : s.wpAt ch ≠ [])
    (h2 : stepCountFor s ≤ p.cacheDepth) : rebuildCheck p s = none := by
  have : ¬ allEmpty s = true := fun hh => h ((allEmpty_iff s).1 hh ch)
  rw [rebuildCheck, if_neg this, if_neg (by omega)]

theorem rebuildCheck_none {p : Params} {s : State} (h : rebuildCheck p s = none) :
    (∃ ch : Chan, s.wpAt ch ≠ []) ∧ stepCountFor s ≤ p.cacheDepth := by
  unfold rebuildCheck at h
  split at h
  · cases h
  · rename_i h1
    split at h
    · cases h
    · refine ⟨?_, by omega⟩
      rw [allEmpty_iff] at h1
      simpa using h1

theorem rebuildCheck_code {p : Params} {s : State} {e : ErrCode} (h : rebuildCheck p s = some e) :
    e = .noWaveformData ∨ e = .cacheOverflow := by
  unfold rebuildCheck at h
  split at h
  · cases h; exact .inl rfl
  · split at h
    · cases h; exact .inr rfl
    · cases h

/-- The rebuild (R92) as an equation: it touches six fields. -/
theorem rebuild_eq (p : Params) (s : State) : rebuild p s = { s with
    cache := perChan (fun ch => sampleChannel p (s.wpAt ch) s.mode s.freq (stepCountFor s))
    curveValid := chanMask (fun ch => !(s.wpAt ch).isEmpty)
    stepCount := BitVec.ofNat 32 (stepCountFor s)
    rmax := BitVec.ofNat 32 (roundedMaxTime s)
    cacheStale := false
    events := if anyEmpty s then s.events ||| 0x0004 else s.events } := by
  unfold rebuild
  split <;> rfl

/-! ## The commands -/

/-- The codes a command can fail with without a write (spec/60_exceptions.md R117, R124). -/
abbrev PreciseCode (e : ErrCode) : Prop := e ≠ .ok ∧ e ≠ .wrongChannelCount ∧ e ≠ .linkNotOpen ∧ e ≠ .writeFailed

/-- What a successful command other than CONNECT, START and STOP does to the state before it responds. -/
inductive Edit : Instr → State → State → Prop where
  | nothing (i : Instr) (s : State) : Edit i s s
  | eventEn (a m : BitVec 16) (s : State) : m &&& 0xFFF0 = 0 → Edit (.evtEn a) s { s with eventEn := m }
  | events (a m : BitVec 16) (s : State) : Edit (.evtClear a) s { s with events := s.events &&& ~~~m }
  | crc (i : Instr) (c : Byte) (s : State) : Edit i s { s with crc := c }
  | wp (i : Instr) (ch : Chan) (l : List Waypoint) (s : State) :
      ((s.wpAt ch).Pairwise (fun a b => a.time < b.time) → (s.wpAt ch).length ≤ 256 →
        l.Pairwise (fun a b => a.time < b.time) ∧ l.length ≤ 256) →
      Edit i s (s.setWp ch l)
  | mode (a : BitVec 16) (m : Mode) (s : State) : Edit (.setMode a) s { s with mode := m }.markStale
  | freq (a f : BitVec 16) (s : State) : f ≠ 0 → Edit (.setFreq a) s
      { s with freq := f, tickCtr := if s.link = LinkState.openStreaming then 0 else s.tickCtr }.markStale
  | port (v : BitVec 32) (s : State) : Edit (.setPort v) s { s with port := v }
  | baud (v : BitVec 32) (s : State) : Edit (.setBaud v) s { s with baud := v }

/-- What a command other than CONNECT, START and STOP can do: fail with a precise code and nothing else, or make its
edit and respond OK. -/
theorem exec_plain {i : Instr} {s t : State} (h : exec i s = .next t)
    (hi : i ≠ .connect) (hi2 : i ≠ .start) (hi3 : i ≠ .stop) :
    (∃ e, PreciseCode e ∧ t = s.fail e) ∨ (∃ u d, Edit i s u ∧ t = u.respond .ok d) := by
  have ok : ∀ {j : Instr} {u : State} {d : Data}, Edit j s u →
      (Host.Outcome.next (u.respond .ok d) : Host.Outcome State Fault Refusal) = .next t →
      (∃ e, PreciseCode e ∧ t = s.fail e) ∨ (∃ u d, Edit j s u ∧ t = u.respond .ok d) :=
    fun he ht => .inr ⟨_, _, he, (Host.Outcome.next.inj ht).symm⟩
  have bad : ∀ {j : Instr} (e : ErrCode), PreciseCode e →
      (Host.Outcome.next (s.fail e) : Host.Outcome State Fault Refusal) = .next t →
      (∃ e, PreciseCode e ∧ t = s.fail e) ∨ (∃ u d, Edit j s u ∧ t = u.respond .ok d) :=
    fun e he ht => .inl ⟨e, he, (Host.Outcome.next.inj ht).symm⟩
  cases i with
  | connect => exact absurd rfl hi
  | start => exact absurd rfl hi2
  | stop => exact absurd rfl hi3
  | nop => exact ok (.nothing _ _) h
  | regRead r =>
    simp only [exec, execRegRead] at h
    split at h
    · exact bad _ (by decide) h
    · exact ok (.nothing _ _) h
  | evtEn a =>
    simp only [exec, execEvtEn] at h
    split at h
    · exact bad _ (by decide) h
    · rename_i m hm
      refine ok (.eventEn a m s ?_) h
      unfold maskOperand at hm
      split at hm
      · cases hm
        have : ∀ x : BitVec 4, x.setWidth 16 &&& 0xFFF0#16 = 0 := by decide
        exact this _
      · cases hm
  | evtClear a =>
    simp only [exec, execEvtClear] at h
    split at h
    · exact bad _ (by decide) h
    · exact ok (.events a _ s) h
  | crcClear => exact ok (.crc _ _ _) h
  | crcFeed b =>
    simp only [exec, execCrcFeed] at h
    split at h
    · exact bad _ (by decide) h
    · exact ok (.crc _ _ _) h
  | wpAdd ch time pwm =>
    simp only [exec, execWpAdd, wpAddOp, waypointOperand_eq] at h
    split at h
    · exact bad _ (by decide) h
    · rename_i hc
      refine ok (.wp _ ch _ s ?_) h
      intro h1 h2
      obtain ⟨g1, -, -, g4⟩ := wpInsert_spec (s.wpAt ch) ⟨time, pwm⟩ h1
      refine ⟨g1, ?_⟩
      rw [g4]
      split
      · rename_i hn
        have : ¬ 256 ≤ (s.wpAt ch).length := fun hh => hc ⟨hn, hh⟩
        omega
      · omega
  | wpUpdate ch idx time pwm =>
    simp only [exec, execWpUpdate, waypointOperand_eq] at h
    split at h
    · exact bad _ (by decide) h
    · rename_i hc
      refine ok (.wp _ ch _ s ?_) h
      intro h1 h2
      obtain ⟨g1, -, -, g4⟩ := wpInsert_spec _ ⟨time, pwm⟩ (eraseIdx_pairwise h1 (indexOperand idx))
      refine ⟨g1, ?_⟩
      rw [g4, List.length_eraseIdx_of_lt (Nat.lt_of_not_le hc)]
      split <;> omega
  | wpRemove ch idx =>
    simp only [exec, execWpRemove] at h
    split at h
    · exact bad _ (by decide) h
    · refine ok (.wp _ ch _ s ?_) h
      exact fun h1 h2 => ⟨eraseIdx_pairwise h1 _, (List.length_eraseIdx_le _ _).trans h2⟩
  | wpRead ch idx =>
    simp only [exec, execWpRead] at h
    split at h
    · exact bad _ (by decide) h
    · exact ok (.nothing _ _) h
  | wpCount ch => exact ok (.nothing _ _) h
  | setMode a =>
    simp only [exec, execSetMode] at h
    split at h
    · exact bad _ (by decide) h
    · exact ok (.mode a _ s) h
  | curveEval ch time =>
    simp only [exec, execCurveEval, curveEvalOp] at h
    split at h
    · exact bad _ (by decide) h
    · exact ok (.nothing _ _) h
  | cacheRead ch k =>
    simp only [exec, execCacheRead] at h
    split at h
    · exact bad _ (by decide) h
    · split at h
      · exact bad _ (by decide) h
      · exact ok (.nothing _ _) h
  | setFreq a =>
    simp only [exec, execSetFreq] at h
    split at h
    · exact bad _ (by decide) h
    · rename_i f hf
      refine ok (.freq a f s ?_) h
      unfold freqOperand at hf
      split at hf
      · cases hf
      · cases hf; assumption
  | setPort v => exact ok (.port v s) h
  | setBaud v => exact ok (.baud v s) h

/-- CONNECT (spec/45_scheduler.md R106). -/
theorem connectOp_cases (s : State) :
    (s.link ≠ .closed ∧ connectOp s = s.fail .invalidState) ∨
    (s.link = .closed ∧ connectOp s =
      ({ s.dropOpen with history := s.history ++ [.opened s.port s.baud .fail] } : State).fail .linkOpenFailed) ∨
    (s.link = .closed ∧ connectOp s = ({ s.dropOpen with
      link := .openIdle, history := s.history ++ [.opened s.port s.baud .ok] } : State).respond .ok 0) := by
  unfold connectOp
  by_cases h : s.link = .closed
  · cases ho : s.nextOpen
    · exact .inr (.inr ⟨h, by rw [if_pos h, openLink_ok ho]⟩)
    · exact .inr (.inl ⟨h, by rw [if_pos h, openLink_fail ho]⟩)
  · exact .inl ⟨h, by rw [if_neg h]⟩

/-- STOP (R108). -/
theorem stopOp_cases (s : State) :
    (s.link = .closed ∧ stopOp s = s.respond .ok 0) ∨
    (s.link ≠ .closed ∧ stopOp s = ({ s.dropWrite with
      tickPending := false, tickCtr := 0, link := .closed
      lastErr := if s.nextWrite = .ok then s.lastErr else s.nextWrite.errCode
      history := s.history ++ [.wrote idleFrame s.nextWrite, .closed] } : State).respond s.nextWrite.errCode 0) := by
  unfold stopOp
  by_cases h : s.link = .closed
  · exact .inl ⟨h, by rw [if_pos h]⟩
  · refine .inr ⟨h, ?_⟩
    rw [if_neg h, stopSequence_eq]
    cases s.nextWrite <;> rfl

/-- START from the rebuild on (R107). -/
theorem beginStream_cases (p : Params) (s : State) :
    (beginStream p s = ({ (rebuild p s).dropWrite with
      cursor := 0, tickCtr := 0, tickPending := false, link := .openStreaming
      history := s.history ++ [.wrote Config.startSeq .ok] } : State).respond .ok 0) ∨
    (∃ w w', w ≠ .ok ∧ beginStream p s = ({ (rebuild p s).dropWrite.dropWrite with
      tickPending := false, tickCtr := 0, link := .closed, lastErr := w.errCode
      events := (rebuild p s).events ||| 0x0002
      history := s.history ++ [.wrote Config.startSeq w, .wrote idleFrame w', .closed] } : State).respond w.errCode 0) := by
  unfold beginStream
  have hh : (rebuild p s).history = s.history := by rw [rebuild_eq]
  simp only [transportWrite_eq, forcedStop_eq]
  cases hw : (rebuild p s).nextWrite
  · left; rw [← hh]
  · right; exact ⟨.notOpen, _, by decide, by rw [← hh]; simp only [List.append_assoc, List.cons_append, List.nil_append]; rfl⟩
  · right; exact ⟨.failed _, _, by simp, by rw [← hh]; simp only [List.append_assoc, List.cons_append, List.nil_append]; rfl⟩

/-- START (R107): a refusal, a failed open, or a begun stream from a state with the link open. -/
theorem startOp_cases (p : Params) (s : State) :
    (∃ e, PreciseCode e ∧ startOp p s = s.fail e) ∨
    (s.link = .closed ∧ startOp p s =
      ({ s.dropOpen with history := s.history ++ [.opened s.port s.baud .fail] } : State).fail .linkOpenFailed) ∨
    (∃ u, rebuildCheck p s = none ∧ startOp p s = beginStream p u ∧
      (s.link = .openIdle ∧ u = s ∨ s.link = .closed ∧
        u = { s.dropOpen with link := .openIdle, history := s.history ++ [.opened s.port s.baud .ok] })) := by
  unfold startOp
  by_cases hl : s.link = .openStreaming
  · exact .inl ⟨.invalidState, by decide, by rw [if_pos hl]⟩
  · rw [if_neg hl]
    cases hr : rebuildCheck p s with
    | some e =>
      refine .inl ⟨e, ?_, rfl⟩
      rcases rebuildCheck_code hr with rfl | rfl <;> decide
    | none =>
      right
      simp only
      by_cases hc : s.link = .closed
      · rw [if_pos hc]
        cases ho : s.nextOpen
        · exact .inr ⟨_, trivial, by rw [openLink_ok ho], .inr ⟨hc, rfl⟩⟩
        · exact .inl ⟨hc, by rw [openLink_fail ho]⟩
      · rw [if_neg hc]
        have hi : s.link = .openIdle := by cases h : s.link <;> simp_all
        exact .inr ⟨s, trivial, rfl, .inl ⟨hi, rfl⟩⟩

/-! ## The autonomous steps -/

/-- The strobe (R109). -/
theorem strobe_cases (s : State) :
    s.strobe = s ∨
    (s.link = .openStreaming ∧ (s.tickCtr + 1).toNat < interval s.freq ∧ s.strobe = { s with tickCtr := s.tickCtr + 1 }) ∨
    (s.link = .openStreaming ∧ s.tickPending = true ∧
      s.strobe = { s with tickCtr := 0, events := s.events ||| 0x0008 }) ∨
    (s.link = .openStreaming ∧ s.strobe = { s with tickCtr := 0, tickPending := true }) := by
  unfold State.strobe
  split
  · rename_i hl
    split
    · split
      · exact .inr (.inr (.inl ⟨hl, ‹_›, rfl⟩))
      · exact .inr (.inr (.inr ⟨hl, rfl⟩))
    · exact .inr (.inl ⟨hl, by omega, rfl⟩)
  · exact .inl rfl

/-- The tick (R110), each of its outcomes. -/
theorem tick_cases (s : State) :
    (s.cursor ≤ s.stepCount ∧ s.tick = { s.dropWrite with
      tickPending := false, cursor := s.cursor + 1
      history := s.history ++ [.wrote (frame (perChan s.tickValue)) .ok] }) ∨
    (s.cursor ≤ s.stepCount ∧ ∃ w w', w ≠ .ok ∧ s.tick = { s.dropWrite.dropWrite with
      tickPending := false, tickCtr := 0, link := .closed, lastErr := w.errCode, events := s.events ||| 0x0002
      history := s.history ++ [.wrote (frame (perChan s.tickValue)) w, .wrote idleFrame w', .closed] }) ∨
    (¬ s.cursor ≤ s.stepCount ∧ s.tick = { s.dropWrite with
      tickPending := false, tickCtr := 0, link := .closed, events := s.events ||| 0x0001
      lastErr := if s.nextWrite = .ok then s.lastErr else s.nextWrite.errCode
      history := s.history ++ [.wrote idleFrame s.nextWrite, .closed] }) := by
  unfold State.tick
  by_cases hc : s.cursor ≤ s.stepCount
  · rw [if_pos hc]
    unfold State.tickFrame
    have hv : ({ s with tickPending := false } : State).tickValue = s.tickValue := by funext ch; rfl
    have hn : ({ s with tickPending := false } : State).nextWrite = s.nextWrite := rfl
    simp only [transportWrite_eq, forcedStop_eq, hv, hn]
    cases s.nextWrite
    · exact .inl ⟨hc, rfl⟩
    · exact .inr (.inl ⟨hc, .notOpen, _, by decide, by simp only [List.append_assoc, List.cons_append, List.nil_append]; rfl⟩)
    · exact .inr (.inl ⟨hc, .failed _, _, by simp, by simp only [List.append_assoc, List.cons_append, List.nil_append]; rfl⟩)
  · rw [if_neg hc]
    refine .inr (.inr ⟨hc, ?_⟩)
    unfold State.tickEnd
    have hn : ({ s with tickPending := false } : State).nextWrite = s.nextWrite := rfl
    rw [stopSequence_eq, hn]
    cases s.nextWrite <;> rfl

/-! ## The step -/

/-- A command's step, whichever the command (R61, R59): with `IllegalCommand` for a word that does not decode. -/
theorem performCommand_cases {w : CmdWord} {s t : State} (h : performCommand w s = .next t) :
    (∃ e, decode w = .error e ∧ t = s.fail .illegalCommand) ∨ (∃ i, decode w = .ok i ∧ exec i s = .next t) := by
  unfold performCommand at h
  split at h
  · exact .inr ⟨_, ‹_›, h⟩
  · exact .inl ⟨_, ‹_›, (Host.Outcome.next.inj h).symm⟩

/-- What a step can do (spec/20_memory.md R48): one of the agents' moves, on the state `u` with the move taken. -/
theorem step_cases {s t : State} (h : step s = .next t) :
    ∃ u ms n, s.takeMove.2 = u ∧ u = { s with sched := ms, draws := n } ∧
      ((∃ w, s.takeMove.1 = .present w ∧ s.cmd = none ∧ t = { u with cmd := some w }) ∨
       (s.takeMove.1 = .command ∧ s.cmd = none ∧ t = u) ∨
       (∃ w, s.takeMove.1 = .command ∧ s.cmd = some w ∧ performCommand w { u with cmd := none } = .next t) ∨
       (s.takeMove.1 = .strobe ∧ t = u.strobe) ∨
       (s.takeMove.1 = .tick ∧ s.link = .openStreaming ∧ s.tickPending = true ∧ s.cmd = none ∧ t = u.tick) ∨
       (s.takeMove.1 = .tick ∧ t = u) ∨
       (s.takeMove.1 = .reset ∧ t = u.resetStep)) := by
  obtain ⟨ms, n, hu⟩ := takeMove_eq s
  refine ⟨_, ms, n, rfl, hu, ?_⟩
  unfold step at h
  have hc : s.takeMove.2.cmd = s.cmd := by rw [hu]
  have hl : s.takeMove.2.link = s.link := by rw [hu]
  have hp : s.takeMove.2.tickPending = s.tickPending := by rw [hu]
  generalize s.takeMove.2 = u at *
  generalize s.takeMove.1 = m at *
  unfold runMove at h
  cases m with
  | present w =>
    rw [hc] at h
    cases hcm : s.cmd with
    | none => rw [hcm] at h; exact .inl ⟨w, rfl, rfl, (Host.Outcome.next.inj h).symm⟩
    | some v => rw [hcm] at h; cases h
  | command =>
    rw [hc] at h
    cases hcm : s.cmd with
    | none => rw [hcm] at h; exact .inr (.inl ⟨rfl, rfl, (Host.Outcome.next.inj h).symm⟩)
    | some w => rw [hcm] at h; exact .inr (.inr (.inl ⟨w, rfl, rfl, h⟩))
  | strobe => exact .inr (.inr (.inr (.inl ⟨rfl, (Host.Outcome.next.inj h).symm⟩)))
  | tick =>
    have ht := (Host.Outcome.next.inj h).symm
    by_cases he : u.tickEnabled = true
    · rw [if_pos he] at ht
      simp only [State.tickEnabled, Bool.and_eq_true, beq_iff_eq, Option.isNone_iff_eq_none, hc, hl, hp] at he
      exact .inr (.inr (.inr (.inr (.inl ⟨rfl, he.1.1, he.1.2, he.2, ht⟩))))
    · rw [if_neg he] at ht
      exact .inr (.inr (.inr (.inr (.inr (.inl ⟨rfl, ht⟩)))))
  | reset => exact .inr (.inr (.inr (.inr (.inr (.inr ⟨rfl, (Host.Outcome.next.inj h).symm⟩)))))

end Sys2Proof.Machine
end

