-- ==== Sys2Proof/Laws/Sampler.lean ====
section
/-! SUPPORT. The curve's and the sampler's operations under the parameters of `Config.params`: truncation, when a curve
has a value, and the samples of one channel. -/

namespace Sys2Proof.Machine

/-- `trunc` of a value that is not negative is its floor (spec/00_scope.md R12). -/
theorem truncate_eq_floor {q : ℚ} (h : 0 ≤ q) : truncate q = ⌊q⌋ := by
  simp only [truncate]
  rw [Int.tdiv_eq_ediv_of_nonneg (Rat.num_nonneg.2 h)]
  exact (Rat.floor_def q).symm

/-- A clamped value lies in [1100, 1900] (R15). -/
theorem clamp_range (v : ℚ) : 1100 ≤ clamp v ∧ clamp v ≤ 1900 := by
  have h1 : ((Config.pwmMin : Int) : ℚ) = 1100 := by norm_num [Config.pwmMin]
  have h2 : ((Config.pwmMax : Int) : ℚ) = 1900 := by norm_num [Config.pwmMax]
  unfold clamp
  rw [h1, h2]
  exact ⟨le_min (by norm_num) (le_max_left _ _), min_le_left _ _⟩

/-- A sample is the floor of the clamped value (spec/42_interpolator.md R84). -/
theorem toSample_toNat (v : ℚ) : ((toSample .truncate v).toNat : Int) = ⌊clamp v⌋ := by
  obtain ⟨h1, h2⟩ := clamp_range v
  have f1 : (1100 : Int) ≤ ⌊clamp v⌋ := Int.le_floor.2 (by exact_mod_cast h1)
  have f2 : ⌊clamp v⌋ < (1901 : Int) := Int.floor_lt.2 (by push_cast; linarith)
  simp only [toSample, roundSample]
  rw [truncate_eq_floor (by linarith), BitVec.toNat_ofInt]
  omega

/-- A sample lies in [1100, 1900] (spec/10_state.md R35). -/
theorem toSample_range (v : ℚ) : 1100 ≤ (toSample .truncate v).toNat ∧ (toSample .truncate v).toNat ≤ 1900 := by
  obtain ⟨h1, h2⟩ := clamp_range v
  have h := toSample_toNat v
  have f1 : (1100 : Int) ≤ ⌊clamp v⌋ := Int.le_floor.2 (by exact_mod_cast h1)
  have f2 : ⌊clamp v⌋ < (1901 : Int) := Int.floor_lt.2 (by push_cast; linarith)
  omega

/-- A non-empty channel has a curve in every mode and at every time (R79). -/
theorem curve_of_ne_nil {l : List Waypoint} (h : l ≠ []) (m : Mode) (t : ℚ) : ∃ v, curve .exact l m t = some v := by
  match l with
  | [a] => exact ⟨_, rfl⟩
  | a :: b :: rest => cases m <;> exact ⟨_, rfl⟩

/-- The samples of an empty channel (spec/43_sampler_cache.md R92): none. -/
theorem sampleChannel_nil (m : Mode) (f : BitVec 16) (n : Nat) : sampleChannel Config.params [] m f n = [] := by
  simp [sampleChannel, sampleAt, curve, Config.params, exactCurve]

/-- The samples of a non-empty channel (R92): one for each of the `n` sample times. -/
theorem sampleChannel_of_ne_nil {l : List Waypoint} (h : l ≠ []) (m : Mode) (f : BitVec 16) (n : Nat) :
    ∃ g : Nat → ℚ, (∀ k, curve .exact l m (sampleTime f k) = some (g k)) ∧
      sampleChannel Config.params l m f n = (List.range n).map (fun k => toSample .truncate (g k)) := by
  choose g hg using fun k : Nat => curve_of_ne_nil h m (sampleTime f k)
  refine ⟨g, hg, ?_⟩
  have hs : (fun k => sampleAt Config.params l m (sampleTime f k)) = fun k => some (toSample .truncate (g k)) := by
    funext k
    simp [sampleAt, Config.params, hg]
  unfold sampleChannel
  rw [hs]
  simp

theorem interval_pos (f : BitVec 16) : 0 < interval f := by unfold interval; omega

/-- An interval fits the 16-bit counter (spec/10_state.md R22, R33). -/
theorem interval_le (f : BitVec 16) : interval f ≤ 1000 := by
  unfold interval
  have := Nat.div_le_self 1000 f.toNat
  omega

end Sys2Proof.Machine
end

