-- ==== Sys2Proof/Laws/Canonical.lean ====
section
/-! SUPPORT. The canonical forms of the two stores (log 11): the operations that write the waypoint memory keep its form,
the rebuild establishes the cache's, and both hold after reset. -/

namespace Sys2Proof.Machine

/-- The cache's form as a check that runs over the samples listed. -/
theorem cacheWf_of_all {s : State}
    (h : ∀ ch : Chan, (if s.validAt ch then
      decide (s.cache[ch].length = s.stepCount.toNat) &&
        s.cache[ch].all (fun v => decide (1100 ≤ v.toNat ∧ v.toNat ≤ 1900))
      else s.cache[ch].isEmpty) = true) : CacheWf s := by
  intro ch
  have hc := h ch
  split
  · rename_i hv
    rw [if_pos hv] at hc
    simpa using hc
  · rename_i hv
    rw [if_neg hv] at hc
    simpa using hc

theorem reset_wpWf : WpWf State.reset := by decide

theorem reset_cacheWf : CacheWf State.reset := by decide

/-- Writing one channel keeps the waypoint memory's form when the new sequence has it (spec/41_waypoint.md R73). -/
theorem setWp_wpWf {s : State} (h : WpWf s) (ch : Chan) {l : List Waypoint}
    (hl : l.Pairwise (fun a b => a.time < b.time) ∧ l.length ≤ 256) : WpWf (s.setWp ch l) := by
  intro ch'
  rw [wpAt_setWp]
  split
  · exact hl
  · exact h ch'

/-- Every command but CONNECT, START and STOP keeps the waypoint memory's form. -/
theorem edit_wpWf {i : Instr} {s u : State} (he : Edit i s u) (h : WpWf s) : WpWf u := by
  cases he
  case wp ch l hl => exact setWp_wpWf h _ (hl (h _).1 (h _).2)
  all_goals exact h

/-- The rebuild gives the cache its form (spec/43_sampler_cache.md R92). -/
theorem rebuild_cacheWf (s : State) (h : stepCountFor s < 2 ^ 32) : CacheWf (rebuild Config.params s) := by
  intro ch
  have hs : (BitVec.ofNat 32 (stepCountFor s)).toNat = stepCountFor s := by
    rw [BitVec.toNat_ofNat, Nat.mod_eq_of_lt h]
  rw [rebuild_eq]
  simp only [State.validAt, chanMask_getLsbD, perChan_getElem, hs]
  by_cases hw : s.wpAt ch = []
  · simp [hw, sampleChannel_nil]
  · obtain ⟨g, -, hg⟩ := sampleChannel_of_ne_nil hw s.mode s.freq (stepCountFor s)
    rw [if_pos (by simpa using hw), hg]
    refine ⟨by simp, ?_⟩
    intro v hv
    obtain ⟨k, -, rfl⟩ := List.mem_map.1 hv
    exact toSample_range _

end Sys2Proof.Machine
end

