-- ==== Sys2Proof/Laws/Codec.lean ====
section
/-! SUPPORT. Lemmas of the command word: packing and unpacking the five fields, the must-be-zero test field by field,
and the opcode map in both directions. -/

namespace Sys2Proof

theorem ofWord_toWord (f : Fields) : Fields.ofWord f.toWord = f := by
  obtain ⟨op, ch, idx, a16, a32⟩ := f
  simp only [Fields.ofWord, Fields.toWord, commandWord, Fields.mk.injEq]
  refine ⟨?_, ?_, ?_, ?_, ?_⟩ <;>
    (apply BitVec.eq_of_getLsbD_eq; intro i hi
     simp only [BitVec.getLsbD_extractLsb', BitVec.getLsbD_append, hi, decide_true, Bool.true_and])
  · simp [show ¬ 59 + i < 32 by omega, show ¬ 59 + i - 32 < 16 by omega, show ¬ 59 + i - 32 - 16 < 8 by omega,
      show ¬ 59 + i - 32 - 16 - 8 < 3 by omega, show 59 + i - 32 - 16 - 8 - 3 = i by omega]
  · simp [show ¬ 56 + i < 32 by omega, show ¬ 56 + i - 32 < 16 by omega, show ¬ 56 + i - 32 - 16 < 8 by omega,
      show 56 + i - 32 - 16 - 8 = i by omega]
    intros; omega
  · simp [show ¬ 48 + i < 32 by omega, show ¬ 48 + i - 32 < 16 by omega, show 48 + i - 32 - 16 = i by omega]
    intros; omega
  · simp [show ¬ 32 + i < 32 by omega]
    intros; omega
  · simp [hi]

theorem toWord_ofWord (w : CmdWord) : (Fields.ofWord w).toWord = w := by
  apply BitVec.eq_of_getLsbD_eq
  intro i hi
  simp only [Fields.ofWord, Fields.toWord, commandWord, BitVec.getLsbD_extractLsb', BitVec.getLsbD_append]
  repeat' split
  all_goals
    rw [decide_eq_true (by omega), Bool.true_and]
    congr 1
    omega

/-- The bitwise AND of two words, field by field. -/
theorem commandWord_and (o o' : BitVec 5) (c c' : BitVec 3) (i i' : BitVec 8) (a a' : BitVec 16) (b b' : BitVec 32) :
    commandWord o c i a b &&& commandWord o' c' i' a' b' =
      commandWord (o &&& o') (c &&& c') (i &&& i') (a &&& a') (b &&& b') := by
  simp only [commandWord]
  apply BitVec.eq_of_getLsbD_eq
  intro k _
  simp only [BitVec.getLsbD_and, BitVec.getLsbD_append]
  repeat' split
  all_goals rfl

theorem commandWord_inj {o o' : BitVec 5} {c c' : BitVec 3} {i i' : BitVec 8} {a a' : BitVec 16} {b b' : BitVec 32} :
    commandWord o c i a b = commandWord o' c' i' a' b' ↔ o = o' ∧ c = c' ∧ i = i' ∧ a = a' ∧ b = b' := by
  constructor
  · intro h
    have := congrArg Fields.ofWord h
    rw [show commandWord o c i a b = Fields.toWord ⟨o, c, i, a, b⟩ from rfl,
      show commandWord o' c' i' a' b' = Fields.toWord ⟨o', c', i', a', b'⟩ from rfl,
      ofWord_toWord, ofWord_toWord] at this
    simpa using this
  · rintro ⟨rfl, rfl, rfl, rfl, rfl⟩; rfl

theorem ofBits_code (o : Opcode) : Opcode.ofBits o.code = some o := by cases o <;> decide

theorem code_of_ofBits {b : BitVec 5} {o : Opcode} (h : Opcode.ofBits b = some o) : o.code = b := by
  have := List.find?_some h
  simpa using this

/-- The must-be-zero test, field by field, for a mask given by its fields (the `OP` field is never masked). -/
theorem and_mask_eq_zero (op : BitVec 5) (ch mc : BitVec 3) (idx mi : BitVec 8) (a16 ma : BitVec 16)
    (a32 mb : BitVec 32) :
    commandWord op ch idx a16 a32 &&& commandWord 0 mc mi ma mb = 0 ↔
      ch &&& mc = 0 ∧ idx &&& mi = 0 ∧ a16 &&& ma = 0 ∧ a32 &&& mb = 0 := by
  rw [commandWord_and, show (0 : CmdWord) = commandWord 0 0 0 0 0 by decide, commandWord_inj]
  simp

/-- The mask of a row, field by field (spec/30_encoding.md R60): all ones in an unused field, zero in an operand. -/
def Opcode.fieldMask : Opcode → Fields
  | .nop | .crcClear | .connect | .start | .stop => ⟨0, 0x7, 0xFF, 0xFFFF, 0xFFFFFFFF⟩
  | .regRead => ⟨0, 0x7, 0, 0xFFFF, 0xFFFFFFFF⟩
  | .evtEn | .evtClear | .crcFeed | .setMode | .setFreq => ⟨0, 0x7, 0xFF, 0, 0xFFFFFFFF⟩
  | .wpAdd => ⟨0, 0, 0xFF, 0, 0⟩
  | .wpUpdate => ⟨0, 0, 0, 0, 0⟩
  | .wpRemove | .wpRead => ⟨0, 0, 0, 0xFFFF, 0xFFFFFFFF⟩
  | .wpCount => ⟨0, 0, 0xFF, 0xFFFF, 0xFFFFFFFF⟩
  | .curveEval | .cacheRead => ⟨0, 0, 0xFF, 0xFFFF, 0⟩
  | .setPort | .setBaud => ⟨0, 0x7, 0xFF, 0xFFFF, 0⟩

theorem mbz_eq_fieldMask (o : Opcode) : o.mbz = o.fieldMask.toWord := by cases o <;> decide

/-- The must-be-zero test of a row, field by field. -/
theorem mbz_test (o : Opcode) (op : BitVec 5) (ch : BitVec 3) (idx : BitVec 8) (a16 : BitVec 16) (a32 : BitVec 32) :
    commandWord op ch idx a16 a32 &&& o.mbz = 0 ↔
      ch &&& o.fieldMask.ch = 0 ∧ idx &&& o.fieldMask.idx = 0 ∧ a16 &&& o.fieldMask.a16 = 0 ∧
        a32 &&& o.fieldMask.a32 = 0 := by
  have h0 : o.fieldMask.op = 0 := by cases o <;> rfl
  rw [mbz_eq_fieldMask, Fields.toWord, h0, and_mask_eq_zero]

/-- Decoding the word of five fields: the row of the opcode, then its unused fields. -/
theorem decode_commandWord {op : BitVec 5} {o : Opcode} (h : Opcode.ofBits op = some o)
    (ch : BitVec 3) (idx : BitVec 8) (a16 : BitVec 16) (a32 : BitVec 32) :
    decode (commandWord op ch idx a16 a32) =
      if ch &&& o.fieldMask.ch = 0 ∧ idx &&& o.fieldMask.idx = 0 ∧ a16 &&& o.fieldMask.a16 = 0 ∧
        a32 &&& o.fieldMask.a32 = 0 then .ok (o.build ⟨op, ch, idx, a16, a32⟩)
      else .error .unusedField := by
  have hf : Fields.ofWord (commandWord op ch idx a16 a32) = ⟨op, ch, idx, a16, a32⟩ :=
    ofWord_toWord ⟨op, ch, idx, a16, a32⟩
  simp only [decode, hf, h, mbz_test]

/-- Every word is the word of its five fields. -/
theorem exists_commandWord (w : CmdWord) : ∃ op ch idx a16 a32, w = commandWord op ch idx a16 a32 :=
  ⟨_, _, _, _, _, (toWord_ofWord w).symm⟩

theorem decode_reserved {op : BitVec 5} (h : Opcode.ofBits op = none)
    (ch : BitVec 3) (idx : BitVec 8) (a16 : BitVec 16) (a32 : BitVec 32) :
    decode (commandWord op ch idx a16 a32) = .error .reservedOpcode := by
  have hf : Fields.ofWord (commandWord op ch idx a16 a32) = ⟨op, ch, idx, a16, a32⟩ :=
    ofWord_toWord ⟨op, ch, idx, a16, a32⟩
  simp only [decode, hf, h]

theorem build_opcode (o : Opcode) (f : Fields) : (o.build f).opcode = o := by cases o <;> rfl

@[simp] theorem and_ones3 (x : BitVec 3) : x &&& 0x7#3 = x := BitVec.and_allOnes (x := x)
@[simp] theorem and_ones8 (x : BitVec 8) : x &&& 0xFF#8 = x := BitVec.and_allOnes (x := x)
@[simp] theorem and_ones16 (x : BitVec 16) : x &&& 0xFFFF#16 = x := BitVec.and_allOnes (x := x)
@[simp] theorem and_ones32 (x : BitVec 32) : x &&& 0xFFFFFFFF#32 = x := BitVec.and_allOnes (x := x)

@[simp] theorem chanOfBits_chanBits3 (ch : Chan) : chanOfBits (chanBits3 ch) = ch := by
  revert ch; decide

@[simp] theorem chanBits3_chanOfBits (b : BitVec 3) : chanBits3 (chanOfBits b) = b := by
  revert b; decide

/-- Eight bus bytes carry the whole word, whatever their arrangement (spec/20_memory.md R43). -/
theorem wordOfBytes_bytesOfWord (order : Machine.ByteOrder) (w : CmdWord) :
    wordOfBytes order (bytesOfWord order w) = some w := by
  simp only [wordOfBytes, bytesOfWord, List.length_ofFn, dite_true, List.getElem_ofFn, Fin.eta, Equiv.symm_apply_apply,
    Option.some.injEq]
  apply BitVec.eq_of_getLsbD_eq
  intro i hi
  simp only [BitVec.getLsbD_append, BitVec.getLsbD_extractLsb']
  interval_cases i <;> rfl

end Sys2Proof
end

