-- ==== Sys2Proof/Laws/Fairness.lean ====
section
/-! SUPPORT. What the fairness assumptions of spec/45_scheduler.md R111 give: the host's duty of R137 follows from them,
and with it no pending tick is starved by host commands (log 16). -/

namespace Sys2Proof.Machine

@[simp] theorem strobe_cmd (s : State) : s.strobe.cmd = s.cmd := by
  rcases strobe_cases s with h | ⟨-, -, h⟩ | ⟨-, -, h⟩ | ⟨-, h⟩ <;> rw [h]

@[simp] theorem tick_cmd (s : State) : s.tick.cmd = s.cmd := by
  rcases tick_cases s with ⟨-, h⟩ | ⟨-, w, w', -, h⟩ | ⟨-, h⟩ <;> rw [h] <;> rfl

/-- Only a `present` move makes a command wait. -/
theorem step_keeps_port_idle {s t : State} (h : step s = .next t) (hc : s.cmd = none)
    (hm : ∀ w, s.takeMove.1 ≠ .present w) : t.cmd = none := by
  obtain ⟨u, ms, n, -, hu, hcase⟩ := step_cases h
  have huc : u.cmd = none := by rw [hu]; exact hc
  rcases hcase with ⟨w, hw, -⟩ | ⟨-, -, rfl⟩ | ⟨w, -, hw, -⟩ | ⟨-, rfl⟩ | ⟨-, -, -, -, rfl⟩ | ⟨-, rfl⟩ | ⟨-, rfl⟩
  · exact absurd hw (hm w)
  · exact huc
  · rw [hc] at hw; cases hw
  · rw [strobe_cmd]; exact huc
  · rw [tick_cmd]; exact huc
  · exact huc
  · rfl

/-- An idle port stays idle for as long as the host presents nothing. -/
theorem port_stays_idle {r : Nat → State} (hr : IsRun r) {n : Nat} (hc : (r n).cmd = none)
    (hm : ∀ k ≥ n, ∀ w, (r k).takeMove.1 ≠ .present w) : ∀ k ≥ n, (r k).cmd = none := by
  intro k hk
  induction k, hk using Nat.le_induction with
  | base => exact hc
  | succ k hk ih => exact step_keeps_port_idle (hr k) ih (hm k hk)

/-- R111's assumptions on the host, and the response that R137 owes to each command, give the duty of R137. -/
theorem idleForTicks_of_fair {r : Nat → State} (hr : IsRun r) (hf : FairRun r) (ha : AnswersCommands r) :
    IdleForTicks r := by
  intro n _
  obtain ⟨m, hm⟩ := hf.2.2
  obtain ⟨k, hk, hc⟩ := ha (max n m)
  exact ⟨k, le_trans (le_max_left n m) hk,
    port_stays_idle hr hc fun j hj => hm j (le_trans (le_trans (le_max_right n m) hk) hj)⟩

/-- No starvation: a tick is taken while enabled, or it is no longer pending (a STOP or a reset cancelled it). -/
theorem tick_not_starved {r : Nat → State} (hf : FairRun r) (hi : IdleForTicks r) (n : Nat) :
    ∃ k ≥ n, ((r k).tickEnabled ∧ (r k).takeMove.1 = .tick) ∨
      ¬ ((r k).link = .openStreaming ∧ (r k).tickPending) := by
  by_contra hno
  push Not at hno
  have hp : ∀ k ≥ n, (r k).link = .openStreaming ∧ (r k).tickPending := fun k hk => (hno k hk).2
  obtain ⟨m, hm, hidle⟩ := hi n hp
  have he : ∀ k ≥ m, (r k).tickEnabled := fun k hk => by
    simp [State.tickEnabled, (hp k (le_trans hm hk)).1, (hp k (le_trans hm hk)).2, hidle k hk]
  obtain ⟨k, hk, ht⟩ := hf.2.1 m he
  exact (hno k (le_trans hm hk)).1 (he k hk) ht

end Sys2Proof.Machine
end

