-- ==== Sys2Proof/Laws/Operands.lean ====
section
/-! SUPPORT. The operand forms: for which values each check passes and what the operand then is; and performing one list
of commands after another. -/

namespace Sys2Proof.Machine

/-- An event mask passes exactly when no bit above 3 is set (spec/46_control.md R115, R116). -/
theorem maskOperand_some {m : BitVec 16} (h : m.toNat ≤ 0xF) : maskOperand m = some m := by
  have h1 : m.extractLsb' 4 12 = 0 := by
    apply BitVec.eq_of_toNat_eq
    simp [Nat.shiftRight_eq_div_pow]
    omega
  have h2 : (m.extractLsb' 0 4).setWidth 16 = m := by
    apply BitVec.eq_of_toNat_eq
    simp
    omega
  simp [maskOperand, h1, h2]

theorem maskOperand_none {m : BitVec 16} (h : 0xF < m.toNat) : maskOperand m = none := by
  have h1 : ¬ m.extractLsb' 4 12 = 0 := by
    intro h'
    have := congrArg BitVec.toNat h'
    simp [Nat.shiftRight_eq_div_pow] at this
    omega
  simp only [maskOperand]
  rw [if_neg h1]

/-- A CRC byte passes exactly when the high byte of its field is zero (spec/40_crc.md R70). -/
theorem byteOperand_setWidth (b : Byte) : byteOperand (b.setWidth 16) = some b := by
  have h1 : (b.setWidth 16).extractLsb' 8 8 = 0 := by
    apply BitVec.eq_of_toNat_eq
    simp [Nat.shiftRight_eq_div_pow]
    omega
  have h2 : (b.setWidth 16).extractLsb' 0 8 = b := by
    apply BitVec.eq_of_toNat_eq
    simp
    exact b.isLt
  simp [byteOperand, h1, h2]

theorem byteOperand_none {m : BitVec 16} (h : 0xFF < m.toNat) : byteOperand m = none := by
  have h1 : ¬ m.extractLsb' 8 8 = 0 := by
    intro h'
    have := congrArg BitVec.toNat h'
    simp [Nat.shiftRight_eq_div_pow] at this
    omega
  simp only [byteOperand]
  rw [if_neg h1]

/-- A register number passes exactly when it is at most 0x11 (R114). -/
theorem regOperand_none {r : BitVec 8} (h : 0x12 ≤ r.toNat) : regOperand r = none := by
  unfold regOperand
  split <;> first | omega | rfl

/-- A mode passes exactly when it is at most 2 (spec/42_interpolator.md R86). -/
theorem modeOperand_none {m : BitVec 16} (h : 2 < m.toNat) : modeOperand m = none := by
  unfold modeOperand
  split <;> first | omega | rfl

/-- A command that completes, and then a list. -/
theorem execAll_cons {i : Instr} (is : List Instr) {s t : State} (h : exec i s = .next t) :
    execAll (i :: is) s = execAll is t := by
  rw [execAll, h]

/-- A list of commands that completes, and then another. -/
theorem execAll_append {xs : List Instr} (ys : List Instr) {s t : State} (h : execAll xs s = .next t) :
    execAll (xs ++ ys) s = execAll ys t := by
  induction xs generalizing s with
  | nil =>
    simp only [execAll, Host.Outcome.next.injEq] at h
    rw [h]
    rfl
  | cons x xs ih =>
    simp only [List.cons_append, execAll] at h ⊢
    cases hx : exec x s with
    | next u =>
      rw [hx] at h
      exact ih h
    | fault f => rw [hx] at h; cases h
    | refused r => rw [hx] at h; cases h

end Sys2Proof.Machine
end

