-- ==== Sys2Proof/Laws/HostSequences.lean ====
section
/-! SUPPORT. What the parts of the host sequences of spec/30_encoding.md R66 do. -/

namespace Sys2Proof.Machine

/-- WP_REMOVE of index 0 in a channel that has a waypoint (spec/41_waypoint.md R76). -/
theorem exec_wpRemove_zero {s : State} {ch : Chan} {w : Waypoint} {l : List Waypoint} (h : s.wpAt ch = w :: l) :
    exec (.wpRemove ch 0) s = .next ((s.setWp ch l).respond .ok 0) := by
  show execWpRemove ch 0 s = _
  simp [execWpRemove, h, indexOperand]

/-- `n` removes of index 0 drop the first `n` waypoints of the channel, and nothing else but the staleness and the
responses changes. -/
theorem execAll_removes (ch : Chan) (n : Nat) {s : State} (h : n ≤ (s.wpAt ch).length) :
    ∃ b rs, execAll (List.replicate n (.wpRemove ch 0)) s = .next { s with
      wp := s.wp.set ch.val ((s.wpAt ch).drop n) ch.isLt, cacheStale := b, responses := s.responses ++ rs } := by
  induction n generalizing s with
  | zero => exact ⟨s.cacheStale, [], by simp [execAll, State.wpAt]⟩
  | succ n ih =>
    cases hl : s.wpAt ch with
    | nil => simp [hl] at h
    | cons w l =>
      have hwp : ((s.setWp ch l).respond .ok 0).wpAt ch = l := wpAt_setWp_same s ch l
      obtain ⟨b, rs, hx⟩ := ih (s := (s.setWp ch l).respond .ok 0) (by rw [hwp]; simp [hl] at h; exact h)
      refine ⟨b, respWord .ok 0 :: rs, ?_⟩
      rw [List.replicate_succ, execAll_cons _ (exec_wpRemove_zero hl), hx, hwp]
      simp [State.setWp, State.markStale, State.respond]

/-- Clearing a channel, however it is polled: `runs.sum` waypoints are dropped; the last poll answers how many are left. -/
theorem execAll_clearChannel (ch : Chan) (runs : List Nat) {s : State} (h : runs.sum ≤ (s.wpAt ch).length) :
    ∃ b rs, execAll (clearChannel ch runs) s = .next { s with
        wp := s.wp.set ch.val ((s.wpAt ch).drop runs.sum) ch.isLt, cacheStale := b, responses := s.responses ++ rs } ∧
      (runs ≠ [] → ∃ rs', rs = rs' ++ [respWord .ok (indexData ((s.wpAt ch).length - runs.sum))]) := by
  induction runs generalizing s with
  | nil => exact ⟨s.cacheStale, [], by simp [execAll, clearChannel, State.wpAt], by simp⟩
  | cons n runs ih =>
    rw [List.sum_cons] at h
    obtain ⟨b, rs, hx⟩ := execAll_removes ch n (s := s) (by omega)
    generalize hu : ({ s with
      wp := s.wp.set ch.val ((s.wpAt ch).drop n) ch.isLt, cacheStale := b, responses := s.responses ++ rs } : State) = u at hx
    have huw : u.wpAt ch = (s.wpAt ch).drop n := by subst hu; simp [State.wpAt]
    have hc : execAll [.wpCount ch] u = .next (u.respond .ok (indexData (u.wpAt ch).length)) := rfl
    have hvw : (u.respond .ok (indexData (u.wpAt ch).length)).wpAt ch = (s.wpAt ch).drop n := huw
    obtain ⟨b', rs', hy, hlast⟩ := ih (s := u.respond .ok (indexData (u.wpAt ch).length))
      (by rw [hvw, List.length_drop]; omega)
    refine ⟨b', rs ++ respWord .ok (indexData (u.wpAt ch).length) :: rs', ?_, fun _ => ?_⟩
    · rw [clearChannel, List.flatMap_cons, List.append_assoc, execAll_append _ hx, execAll_append _ hc]
      rw [clearChannel] at hy
      rw [hy, hvw, List.drop_drop, List.sum_cons]
      subst hu
      simp [State.respond]
    · cases runs with
      | nil =>
        simp only [clearChannel, List.flatMap_nil, execAll, Host.Outcome.next.injEq] at hy
        have hr : rs' = [] := by simpa using congrArg State.responses hy
        exact ⟨rs, by simp [hr, huw]⟩
      | cons m runs =>
        obtain ⟨q, hq⟩ := hlast (by simp)
        refine ⟨rs ++ respWord .ok (indexData (u.wpAt ch).length) :: q, ?_⟩
        rw [hq, hvw]
        simp [Nat.sub_sub]

end Sys2Proof.Machine
end

