-- ==== Sys2Proof/Laws/PerInstr.lean ====
section
/-! SUPPORT. Statements for all instructions, one lemma per constructor. -/

namespace Sys2Proof.Laws.EncodeMatches

/-- The word of a command matches its row's mask and match value (spec/30_encoding.md R59, R60). -/
def Statement (i : Instr) : Prop := encode i &&& i.opcode.rowMask = i.opcode.rowMatch

/-- A word whose fields outside the operands are zero matches its row. -/
theorem of_fields {i : Instr} (h : i.fields.op = i.opcode.code)
    (hm : i.fields.ch &&& i.opcode.fieldMask.ch = 0 ∧ i.fields.idx &&& i.opcode.fieldMask.idx = 0 ∧
      i.fields.a16 &&& i.opcode.fieldMask.a16 = 0 ∧ i.fields.a32 &&& i.opcode.fieldMask.a32 = 0) : Statement i := by
  have h1 : i.opcode.rowMask = commandWord 0x1F i.opcode.fieldMask.ch i.opcode.fieldMask.idx i.opcode.fieldMask.a16
      i.opcode.fieldMask.a32 := by
    generalize i.opcode = o
    cases o <;> decide
  have h2 : i.opcode.rowMatch = commandWord i.opcode.code 0 0 0 0 := by
    generalize i.opcode = o
    cases o <;> decide
  unfold Statement
  rw [h1, h2]
  show commandWord i.fields.op i.fields.ch i.fields.idx i.fields.a16 i.fields.a32 &&& _ = _
  rw [commandWord_and, h, hm.1, hm.2.1, hm.2.2.1, hm.2.2.2]
  rw [show i.opcode.code &&& (0x1F : BitVec 5) = i.opcode.code from BitVec.and_allOnes]

theorem nop : Statement .nop := of_fields rfl (by decide)
theorem regRead (reg : BitVec 8) : Statement (.regRead reg) :=
  of_fields rfl (by simp [Instr.fields, Instr.opcode, Opcode.fieldMask])
theorem evtEn (mask : BitVec 16) : Statement (.evtEn mask) :=
  of_fields rfl (by simp [Instr.fields, Instr.opcode, Opcode.fieldMask])
theorem evtClear (mask : BitVec 16) : Statement (.evtClear mask) :=
  of_fields rfl (by simp [Instr.fields, Instr.opcode, Opcode.fieldMask])
theorem crcClear : Statement .crcClear := of_fields rfl (by decide)
theorem crcFeed (byte : BitVec 16) : Statement (.crcFeed byte) :=
  of_fields rfl (by simp [Instr.fields, Instr.opcode, Opcode.fieldMask])
theorem wpAdd (ch : Chan) (time : RawTime) (pwm : RawPwm) : Statement (.wpAdd ch time pwm) :=
  of_fields rfl (by simp [Instr.fields, Instr.opcode, Opcode.fieldMask])
theorem wpUpdate (ch : Chan) (idx : BitVec 8) (time : RawTime) (pwm : RawPwm) : Statement (.wpUpdate ch idx time pwm) :=
  of_fields rfl (by simp [Instr.fields, Instr.opcode, Opcode.fieldMask])
theorem wpRemove (ch : Chan) (idx : BitVec 8) : Statement (.wpRemove ch idx) :=
  of_fields rfl (by simp [Instr.fields, Instr.opcode, Opcode.fieldMask])
theorem wpRead (ch : Chan) (idx : BitVec 8) : Statement (.wpRead ch idx) :=
  of_fields rfl (by simp [Instr.fields, Instr.opcode, Opcode.fieldMask])
theorem wpCount (ch : Chan) : Statement (.wpCount ch) :=
  of_fields rfl (by simp [Instr.fields, Instr.opcode, Opcode.fieldMask])
theorem setMode (mode : BitVec 16) : Statement (.setMode mode) :=
  of_fields rfl (by simp [Instr.fields, Instr.opcode, Opcode.fieldMask])
theorem curveEval (ch : Chan) (time : RawTime) : Statement (.curveEval ch time) :=
  of_fields rfl (by simp [Instr.fields, Instr.opcode, Opcode.fieldMask])
theorem cacheRead (ch : Chan) (k : BitVec 32) : Statement (.cacheRead ch k) :=
  of_fields rfl (by simp [Instr.fields, Instr.opcode, Opcode.fieldMask])
theorem setFreq (freq : BitVec 16) : Statement (.setFreq freq) :=
  of_fields rfl (by simp [Instr.fields, Instr.opcode, Opcode.fieldMask])
theorem setPort (port : BitVec 32) : Statement (.setPort port) :=
  of_fields rfl (by simp [Instr.fields, Instr.opcode, Opcode.fieldMask])
theorem setBaud (baud : BitVec 32) : Statement (.setBaud baud) :=
  of_fields rfl (by simp [Instr.fields, Instr.opcode, Opcode.fieldMask])
theorem connect : Statement .connect := of_fields rfl (by decide)
theorem start : Statement .start := of_fields rfl (by decide)
theorem stop : Statement .stop := of_fields rfl (by decide)

end Sys2Proof.Laws.EncodeMatches
end

