-- ==== Sys2Proof/Tests/Slice0.lean ====
section
/-! SUPPORT. Tests: the ill-formed commands, words of every command written out from spec/30_encoding.md R56-R60, one-step
tests whose expected results are the vectors of spec/95_test_vectors.md and the examples of the rules, and witnesses of
the statements' hypotheses. -/

open Sys2Proof Sys2Proof.Machine

namespace Sys2Proof.Tests

set_option Elab.async false

/-! ## Well-formedness: one ill-formed command per check (spec/60_exceptions.md R117) -/

theorem test_wf_reg : WellFormed (.regRead 0x11) = true ∧ WellFormed (.regRead 0x12) = false := by decide
theorem test_wf_evtEn : WellFormed (.evtEn 0x000F) = true ∧ WellFormed (.evtEn 0x0010) = false := by decide
theorem test_wf_evtClear : WellFormed (.evtClear 0x000F) = true ∧ WellFormed (.evtClear 0x8000) = false := by decide
theorem test_wf_crcByte : WellFormed (.crcFeed 0x00FF) = true ∧ WellFormed (.crcFeed 0x0100) = false := by decide
theorem test_wf_mode : WellFormed (.setMode 2) = true ∧ WellFormed (.setMode 3) = false := by decide
theorem test_wf_freq : WellFormed (.setFreq 1) = true ∧ WellFormed (.setFreq 0) = false := by decide

/-! ## Decoding: words written out from R56 and R60 -/

/-- OP 00000, all other bits zero. -/
theorem test_decode_nop : decode 0x0000000000000000 = .ok .nop := by decide
/-- OP 00001, CH 000, IDX 00010001. -/
theorem test_decode_regRead : decode 0x0811000000000000 = .ok (.regRead 0x11) := by decide
/-- OP 00010, A16 0x0003 (R115). -/
theorem test_decode_evtEn : decode 0x1000000300000000 = .ok (.evtEn 0x0003) := by decide
/-- OP 00011, A16 0x000F (R116). -/
theorem test_decode_evtClear : decode 0x1800000F00000000 = .ok (.evtClear 0x000F) := by decide
/-- OP 00100 (R69). -/
theorem test_decode_crcClear : decode 0x2000000000000000 = .ok .crcClear := by decide
/-- OP 00101, A16 0x00AA (R70). -/
theorem test_decode_crcFeed : decode 0x280000AA00000000 = .ok (.crcFeed 0x00AA) := by decide
/-- OP 01000, CH 001, A16 -3, A32 0.5 s (V-WP-8). -/
theorem test_decode_wpAdd : decode 0x4100FFFD00008000 = .ok (.wpAdd 1 0x00008000 0xFFFD) := by decide
/-- OP 01001, CH 001, IDX 2, A16 1200, A32 3.5 s (R75). -/
theorem test_decode_wpUpdate : decode 0x490204B000038000 = .ok (.wpUpdate 1 2 0x00038000 1200) := by decide
/-- OP 01010, CH 001, IDX 1 (V-WP-7). -/
theorem test_decode_wpRemove : decode 0x5101000000000000 = .ok (.wpRemove 1 1) := by decide
/-- OP 01011, CH 001, IDX 2 (V-WP-12). -/
theorem test_decode_wpRead : decode 0x5902000000000000 = .ok (.wpRead 1 2) := by decide
/-- OP 01100, CH 011 (R78). -/
theorem test_decode_wpCount : decode 0x6300000000000000 = .ok (.wpCount 3) := by decide
/-- OP 10000, A16 2 (R86). -/
theorem test_decode_setMode : decode 0x8000000200000000 = .ok (.setMode 2) := by decide
/-- OP 10001, CH 010, A32 0 (V-INT-15). -/
theorem test_decode_curveEval : decode 0x8A00000000000000 = .ok (.curveEval 2 0) := by decide
/-- OP 10010, CH 000, A32 7 (V-SMP-16). -/
theorem test_decode_cacheRead : decode 0x9000000000000007 = .ok (.cacheRead 0 7) := by decide
/-- OP 11000, A16 50 (R103). -/
theorem test_decode_setFreq : decode 0xC000003200000000 = .ok (.setFreq 50) := by decide
/-- OP 11001, A32 1 (R104). -/
theorem test_decode_setPort : decode 0xC800000000000001 = .ok (.setPort 1) := by decide
/-- OP 11010, A32 115200 (R105). -/
theorem test_decode_setBaud : decode 0xD00000000001C200 = .ok (.setBaud 115200) := by decide
/-- OP 11011 (R106), 11100 (R107), 11101 (R108). -/
theorem test_decode_connect : decode 0xD800000000000000 = .ok .connect := by decide
theorem test_decode_start : decode 0xE000000000000000 = .ok .start := by decide
theorem test_decode_stop : decode 0xE800000000000000 = .ok .stop := by decide
/-- The decoder vectors of 2.8. -/
theorem test_decode_illegal :
    decode 0x3000000000000000 = .error .reservedOpcode ∧ decode 0x9800000000000000 = .error .reservedOpcode ∧
    decode 0xF800000000000000 = .error .reservedOpcode ∧ decode 0x400105DC00000000 = .error .unusedField ∧
    decode 0x6000000000000001 = .error .unusedField ∧ decode 0xC900000000000001 = .error .unusedField ∧
    decode 0x8800000100000000 = .error .unusedField ∧ decode 0x0900000000000000 = .error .unusedField := by decide
/-- A byte bus in three arrangements: the word's lowest byte first, its highest first, and the two 32-bit halves of the
second swapped (R43). -/
theorem test_bus_order :
    wordOfBytes .littleEndian [0x00, 0x00, 0x0A, 0x00, 0x6C, 0x07, 0x00, 0x40] = some 0x4000076C000A0000 ∧
    wordOfBytes .bigEndian [0x40, 0x00, 0x07, 0x6C, 0x00, 0x0A, 0x00, 0x00] = some 0x4000076C000A0000 ∧
    bytesOfWord .bigEndian 0x4000076C000A0000 = [0x40, 0x00, 0x07, 0x6C, 0x00, 0x0A, 0x00, 0x00] ∧
    wordOfBytes (ByteOrder.bigEndian.trans (Equiv.addRight 4)) [0x00, 0x0A, 0x00, 0x00, 0x40, 0x00, 0x07, 0x6C] =
      some 0x4000076C000A0000 := by decide

/-! ## One command, from a small state -/

/-- The response to a command word, from a state without earlier responses. -/
def answer (w : CmdWord) (s : State) : Option (List RespWord) :=
  match performCommand w s with
  | .next t => some t.responses
  | _ => none

/-- A field of the state after a command word. -/
def after {α : Type} (w : CmdWord) (s : State) (f : State → α) : Option α :=
  match performCommand w s with
  | .next t => some (f t)
  | _ => none

/-- Reset with the given waypoints on one channel. -/
def withWp (ch : Chan) (l : List Waypoint) : State := { State.reset with wp := State.reset.wp.set ch.val l ch.isLt }

/-- The ramp of S3, in Linear mode at 1 Hz. -/
def ramp : State := { withWp 0 [⟨0, 1100⟩, ⟨0x000A0000, 1900⟩] with freq := 1 }

/-- A run in progress: one channel with three samples, at 10 Hz, writes answered as listed. -/
def streaming (cursor : BitVec 32) (writes : List WriteOutcome) : State :=
  { State.reset with
    link := .openStreaming, freq := 10, cursor := cursor, stepCount := 3, curveValid := 0x01
    cache := #v[[1100, 1500, 1900], [], [], [], [], [], [], []], tickPending := true, writeIn := writes }

/-- Whether the step answers a next state of which `p` holds. -/
def stepGives (s : State) (p : State → Bool) : Bool :=
  match step s with
  | .next t => p t
  | _ => false

theorem of_stepGives {s : State} {p : State → Bool} (h : stepGives s p = true) : ∃ t, step s = .next t ∧ p t = true := by
  unfold stepGives at h
  split at h
  · exact ⟨_, ‹_›, h⟩
  · cases h

theorem test_nop : answer 0x0000000000000000 State.reset = some [0x0000000000000000] := by decide +kernel
/-- V-CTL-1. -/
theorem test_regRead_freq : answer 0x0802000000000000 State.reset = some [0x0000000000000014] := by decide +kernel
theorem test_regRead_reserved : answer 0x0812000000000000 State.reset = some [0x0900000000000000] := by decide +kernel
/-- V-CTL-2. -/
theorem test_evtEn : after 0x1000000300000000 State.reset State.eventEn = some 0x0003 := by decide +kernel
theorem test_evtEn_reserved : answer 0x1000001000000000 State.reset = some [0x0900000000000000] := by decide +kernel
theorem test_evtClear : answer 0x1800000F00000000 { State.reset with events := 5 } = some [0x0000000000000000] := by decide +kernel
theorem test_evtClear_irq :
    after 0x1800000400000000 { State.reset with events := 5, eventEn := 4 } (fun t => (t.events, t.irq)) =
      some (1, false) := by decide +kernel
/-- The examples of R69 and R70. -/
theorem test_crcClear : after 0x2000000000000000 { State.reset with crc := 0xCF } State.crc = some 0x00 := by decide +kernel
theorem test_crcFeed : answer 0x280000AA00000000 State.reset = some [0x000000000000005F] := by decide +kernel
theorem test_crcFeed_wide : answer 0x2800010000000000 State.reset = some [0x0900000000000000] := by decide +kernel
/-- V-CRC-1. -/
theorem test_crc8_golden : crc8 [0xAA, 0x00, 0x00] = 0xCF := by decide +kernel
/-- V-WP-2, and V-WP-3 under `WP_DEPTH = 2`. -/
theorem test_wpAdd :
    after 0x4100044C00010000 (withWp 1 [⟨0x00040000, 1500⟩]) (fun t => (t.responses, t.wpAt 1)) =
      some ([0x0000000000000000], [⟨0x00010000, 1100⟩, ⟨0x00040000, 1500⟩]) := by decide +kernel
theorem test_wpAdd_full :
    (wpAddOp { wpDepth := 2 } 1 ⟨0x00020000, 1300⟩ (withWp 1 [⟨0x00010000, 1100⟩, ⟨0x00040000, 1500⟩])).responses =
      [0x0B00000000000000] := by decide +kernel
/-- V-WP-6 and V-WP-11. -/
theorem test_wpUpdate_collides :
    after 0x490006A400040000 (withWp 1 [⟨0x00010000, 1100⟩, ⟨0x00040000, 1600⟩]) (fun t => (t.responses, t.wpAt 1)) =
      some ([0x0000000000000000], [⟨0x00040000, 1700⟩]) := by decide +kernel
theorem test_wpUpdate_moves :
    answer 0x4900057800050000 (withWp 1 [⟨0x00010000, 1100⟩, ⟨0x00020000, 1300⟩, ⟨0x00038000, 1200⟩]) =
      some [0x0000000000000002] := by decide +kernel
/-- R76's example and V-WP-7. -/
theorem test_wpRemove :
    after 0x5000000000000000 ramp (fun t => (t.responses, t.wpAt 0)) =
      some ([0x0000000000000000], [⟨0x000A0000, 1900⟩]) := by decide +kernel
theorem test_wpRemove_missing :
    answer 0x5101000000000000 (withWp 1 [⟨0x00040000, 1700⟩]) = some [0x0300000000000000] := by decide +kernel
/-- V-WP-8 and R77's example. -/
theorem test_wpRead_negative :
    answer 0x5900000000000000 (withWp 1 [⟨0x00008000, 0xFFFD⟩]) = some [0x0000FFFD00008000] := by decide +kernel
theorem test_wpRead : answer 0x5801000000000000 ramp = some [0x0000076C000A0000] := by decide +kernel
/-- V-WP-16. -/
theorem test_wpCount : answer 0x6300000000000000 State.reset = some [0x0000000000000000] := by decide +kernel
/-- R86's examples. -/
theorem test_setMode : after 0x8000000200000000 State.reset State.mode = some .polynomial := by decide +kernel
theorem test_setMode_illegal : answer 0x8000000300000000 State.reset = some [0x0900000000000000] := by decide +kernel
/-- S3: past the end, clipped. V-INT-9: the polynomial at 0.5 s. -/
theorem test_curveEval_clipped : answer 0x88000000000B0000 ramp = some [0x000000000001076C] := by decide +kernel
theorem test_curveEval_polynomial :
    answer 0x8800000000008000
      { withWp 0 [⟨0, 1100⟩, ⟨0x00010000, 1500⟩, ⟨0x00020000, 1300⟩] with mode := .polynomial } =
      some [0x000000000000055F] := by decide +kernel
/-- S4: held before the first waypoint. -/
theorem test_curve_hold :
    toSample .truncate (holdCurve ⟨0x00020000, 1200⟩ [⟨0x00050000, 1700⟩] 1) = 1200 := by decide +kernel
/-- The checks of R93 in their order. -/
theorem test_cacheRead : answer 0x9000000000000001 (streaming 0 []) = some [0x00000000000005DC] := by decide +kernel
theorem test_cacheRead_checks :
    answer 0x9000000000000003 (streaming 0 []) = some [0x0300000000000000] ∧
    answer 0x9100000000000009 (streaming 0 []) = some [0x0100000000000000] := by decide +kernel
/-- V-SMP-13: channel 0, truncated samples. -/
theorem test_sampleChannel :
    sampleChannel {} [⟨0, 1100⟩, ⟨0x00030000, 1200⟩] .linear 2 7 = [1100, 1116, 1133, 1150, 1166, 1183, 1200] := by
  decide +kernel
/-- V-SMP-2 and V-SMP-3: half to even. -/
theorem test_half_to_even : roundHalfEven 0x00028000 = 2 ∧ roundHalfEven 0x00038000 = 4 := by decide +kernel
/-- V-SCH-4. -/
theorem test_setFreq : after 0xC000003200000000 State.reset (fun t => interval t.freq) = some 20 := by decide +kernel
theorem test_setFreq_zero : answer 0xC000000000000000 State.reset = some [0x0900000000000000] := by decide +kernel
theorem test_setPort : after 0xC800000000000001 State.reset State.port = some 1 := by decide +kernel
theorem test_setBaud : after 0xD00000000001C200 State.reset State.baud = some 115200 := by decide +kernel
/-- V-SCH-3. -/
theorem test_connect :
    after 0xD800000000000000 { State.reset with openIn := [.ok] } (fun t => (t.responses, t.link)) =
      some ([0x0000000000000000], .openIdle) := by decide +kernel
theorem test_connect_fails :
    after 0xD800000000000000 { State.reset with openIn := [.fail] } (fun t => (t.responses, t.link)) =
      some ([0x0500000000000000], .closed) := by decide +kernel
/-- R107's example: S3 at 1 Hz. -/
theorem test_start :
    after 0xE000000000000000 { ramp with openIn := [.ok], writeIn := [.ok] }
        (fun t => (t.link, t.stepCount, t.cursor, t.history)) =
      some (.openStreaming, 11, 0,
        [.opened 0 0 .ok, .wrote [0xFF, 0x00, 0x01, 0x00, 0x00, 0x52, 0xEE] .ok]) := by decide +kernel
/-- V-SCH-3: a failed start write. -/
theorem test_start_forced_stop :
    after 0xE000000000000000 { ramp with openIn := [.ok], writeIn := [.failed 0, .ok] }
        (fun t => (t.responses, t.link, t.events &&& 0x0002, t.lastErr, t.history.length)) =
      some ([0x0700000000000000], .closed, 0x0002, .writeFailed, 4) := by decide +kernel
/-- V-SCH-3: a STOP whose idle write finds the transport closed. -/
theorem test_stop_notOpen :
    after 0xE800000000000000 (streaming 1 [.notOpen]) (fun t => (t.responses, t.link, t.tickPending, t.lastErr)) =
      some ([0x0600000000000000], .closed, false, .linkNotOpen) := by decide +kernel
theorem test_stop_closed : after 0xE800000000000000 State.reset (fun t => (t.responses, t.history)) =
    some ([0x0000000000000000], []) := by decide +kernel

/-! ## One autonomous step -/

/-- V-SCH-2: an expiry with the tick still pending. -/
theorem test_strobe_overrun :
    ({ streaming 0 [] with tickCtr := 99 }.strobe.tickCtr, { streaming 0 [] with tickCtr := 99 }.strobe.events) =
      (0, 0x0008) := by decide +kernel
theorem test_strobe_closed : { State.reset with tickCtr := 7 }.strobe = { State.reset with tickCtr := 7 } := by decide +kernel
/-- R110: a data frame (V-FRM-6's bytes for 1100 on channel 0); the all-idle frame at `cursor = step_count`. -/
theorem test_tick_frame :
    (streaming 0 [.ok]).tick.history = [.wrote [0xAA, 0x00, 0x00, 0x4C, 0x04, 0xDC, 0x05, 0xDC, 0x05, 0xDC, 0x05, 0xDC,
      0x05, 0xDC, 0x05, 0xDC, 0x05, 0xDC, 0x05, 0x13, 0xEE] .ok] ∧ (streaming 0 [.ok]).tick.cursor = 1 := by
  decide +kernel
theorem test_tick_idle : (streaming 3 [.ok]).tick.history = [.wrote idleFrame .ok] := by decide +kernel
/-- R110: past the end. -/
theorem test_tick_end :
    (streaming 4 [.ok]).tick.link = .closed ∧ (streaming 4 [.ok]).tick.events = 0x0001 := by decide +kernel
/-- V-FRM-4 and V-FRM-5: the channel order and the framer's clamp. -/
theorem test_frame :
    frame #v[1100, 1200, 1300, 1400, 1500, 1600, 1700, 1800] = [0xAA, 0x00, 0x00, 0x4C, 0x04, 0xB0, 0x04, 0x14, 0x05,
      0x78, 0x05, 0xDC, 0x05, 0x40, 0x06, 0xA4, 0x06, 0x08, 0x07, 0x5D, 0xEE] := by decide +kernel
theorem test_frame_clamp :
    frame #v[0, 5000, 1500, 1500, 1500, 1500, 1500, -3] = [0xAA, 0x00, 0x00, 0x4C, 0x04, 0x6C, 0x07, 0xDC, 0x05,
      0xDC, 0x05, 0xDC, 0x05, 0xDC, 0x05, 0xDC, 0x05, 0x4C, 0x04, 0x8D, 0xEE] := by decide +kernel
/-- The step runs a placed word. -/
theorem test_fetch : stepGives (State.reset.withFetchWord 64 0x2800010000000000) (fun t => t.lastErr == .invalidArgument) :=
  by decide +kernel

/-! ## Witnesses: states and operands that meet the statements' hypotheses, clause by clause, at the boundaries -/

/-- A full channel: 256 waypoints at raw times 0..255 (V-WP-15). -/
def full : State := withWp 0 ((List.range 256).map (fun k => ⟨BitVec.ofNat 32 k, 1500⟩))

theorem test_witness_encodeOfDecode : decode 0x5902000000000000 = .ok (.wpRead 1 2) := by decide +kernel

theorem test_witness_decodeSelectsOneRow :
    decode 0x4FFFFFFFFFFFFFFF = .ok (.wpUpdate 7 0xFF 0xFFFFFFFF 0xFFFF) ∧
      decode 0xFFFFFFFFFFFFFFFF = .error .reservedOpcode := by decide +kernel

theorem test_witness_stepRunsDecodedCommand :
    (State.reset.withCommand 0xE800000000000000).sched = .command :: [] ∧
      (State.reset.withCommand 0xE800000000000000).cmd = some 0xE800000000000000 ∧
      decode 0xE800000000000000 = .ok .stop := by decide +kernel

theorem test_witness_illegalWord :
    (State.reset.withCommand 0xF800000000000000).sched = .command :: [] ∧
      (State.reset.withCommand 0xF800000000000000).cmd = some 0xF800000000000000 ∧
      decode 0xF800000000000000 = .error .reservedOpcode := by decide +kernel

/-- StepOfEachAgent, a state for each clause. -/
theorem test_witness_stepOfEachAgent :
    (∃ s : State, s.sched = .strobe :: []) ∧
    (∃ s : State, s.sched = .tick :: [] ∧ s.link = .openStreaming ∧ s.tickPending = true ∧ s.cmd = none) ∧
    (∃ s : State, s.sched = .tick :: [] ∧ s.link ≠ .openStreaming) ∧
    (∃ s : State, s.sched = .tick :: [] ∧ s.link = .openStreaming ∧ s.tickPending = true ∧ s.cmd ≠ none) ∧
    (∃ s : State, s.sched = .present 0 :: [] ∧ s.cmd = none) ∧
    (∃ s : State, s.sched = .present 0 :: [] ∧ s.cmd = some 0) ∧
    (∃ s : State, s.sched = []) :=
  ⟨⟨{ State.reset with sched := [.strobe] }, rfl⟩, ⟨{ streaming 0 [] with sched := [.tick] }, by decide +kernel⟩,
    ⟨{ State.reset with sched := [.tick] }, by decide +kernel⟩,
    ⟨{ streaming 0 [] with sched := [.tick], cmd := some 0 }, by decide +kernel⟩,
    ⟨{ State.reset with sched := [.present 0] }, by decide +kernel⟩,
    ⟨{ State.reset with sched := [.present 0], cmd := some 0 }, by decide +kernel⟩, ⟨State.reset, rfl⟩⟩

theorem test_witness_onlyASecondCommandStops :
    (∃ s : State, s.takeMove.1 = .present 0 ∧ s.cmd = some 0) ∧
    (∃ s : State, ∀ w v : CmdWord, s.takeMove.1 = .present w → s.cmd ≠ some v) :=
  ⟨⟨{ State.reset with sched := [.present 0], cmd := some 0 }, by decide +kernel⟩,
    ⟨{ State.reset with sched := [.present 0] }, fun _ v _ => by simp [State.reset]⟩⟩

theorem test_witness_reset : ({ streaming 2 [] with sched := [.reset] } : State).sched = .reset :: [] := rfl

theorem test_witness_nop : ({ streaming 0 [] with cmd := some 0 } : State).cmd = some 0 := rfl

theorem test_witness_regRead : 0x12 ≤ (0x12 : BitVec 8).toNat ∧ 0x12 ≤ (0xFF : BitVec 8).toNat := by decide +kernel

/-- The masks at each side of the check, of EVT_EN and EVT_CLEAR. -/
theorem test_witness_evt : (0x000F : BitVec 16).toNat ≤ 0xF ∧ ¬ (0x0010 : BitVec 16).toNat ≤ 0xF := by decide +kernel

theorem test_witness_crcDetects : crc8 ([0xAA] ++ 0x01 :: [0x02]) = crc8 ([0xAA] ++ 0x01 :: [0x02]) := rfl

theorem test_witness_crcFeed : 0xFF < (0x0100 : BitVec 16).toNat := by decide +kernel

/-- WP_ADD: a new time in a full channel; an existing time in it; a channel with room. -/
theorem test_witness_wpAdd_full :
    WpWf full ∧ (full.wpAt 0).length = 256 ∧ (∀ w ∈ full.wpAt 0, w.time ≠ 0x00000100) ∧
      ¬ ((full.wpAt 0).length = 256 ∧ ∀ w ∈ full.wpAt 0, w.time ≠ 0x000000FF) := by decide +kernel
theorem test_witness_wpAdd : WpWf ramp ∧ ¬ (ramp.wpAt 0).length = 256 := by decide +kernel

/-- WP_UPDATE, WP_REMOVE, WP_READ, WP_COUNT: the last index of a channel and the first one past it. -/
theorem test_witness_wpIndex :
    WpWf ramp ∧ (ramp.wpAt 0)[(1 : BitVec 8).toNat]? = some ⟨0x000A0000, 1900⟩ ∧
      (ramp.wpAt 0)[(2 : BitVec 8).toNat]? = none ∧ (1 : BitVec 8).toNat < (ramp.wpAt 0).length ∧
      ¬ (2 : BitVec 8).toNat < (ramp.wpAt 0).length := by decide +kernel

/-- Three waypoints at 0, 1 and 2 seconds. -/
def three : List Waypoint := [⟨0, 1100⟩, ⟨0x00010000, 1500⟩, ⟨0x00020000, 1300⟩]

/-- Linear mode: before the second time; at it; past the last. -/
theorem test_witness_linear :
    three.Pairwise (fun a b => a.time < b.time) ∧ three[0]? = some ⟨0, 1100⟩ ∧
      three[0 + 1]? = some ⟨0x00010000, 1500⟩ ∧ three[1 + 1]? = some ⟨0x00020000, 1300⟩ ∧
      (1 / 2 : ℚ) < ((0x00010000 : RawTime).toNat : ℚ) / 65536 ∧ ((0x00010000 : RawTime).toNat : ℚ) / 65536 ≤ 1 ∧
      ((0x00010000 : RawTime).toNat : ℚ) / 65536 ≤ 3 ∧ 1 + 2 = three.length := by decide +kernel

/-- StepHold mode: before the first time; at the second; past the last. -/
theorem test_witness_stepHold :
    [(⟨0x00010000, 1500⟩ : Waypoint), ⟨0x00020000, 1300⟩].Pairwise (fun a b => a.time < b.time) ∧
      (0 : ℚ) < ((0x00010000 : RawTime).toNat : ℚ) / 65536 ∧ ((0x00010000 : RawTime).toNat : ℚ) / 65536 ≤ 1 ∧
      (1 : ℚ) < ((0x00020000 : RawTime).toNat : ℚ) / 65536 ∧ ((0x00020000 : RawTime).toNat : ℚ) / 65536 ≤ 3 ∧
      [(⟨0x00010000, 1500⟩ : Waypoint), ⟨0x00020000, 1300⟩][1 + 1]? = none := by decide +kernel

theorem test_witness_polynomial : three ≠ [] ∧ three.Pairwise (fun a b => a.time < b.time) := by decide +kernel

theorem test_witness_setMode : (2 : BitVec 16).toNat ≤ 2 ∧ ¬ (3 : BitVec 16).toNat ≤ 2 := by decide +kernel

/-- CURVE_EVAL: an empty channel, and one with a curve. -/
theorem test_witness_curveEval :
    curve .exact (State.reset.wpAt 0) State.reset.mode 0 = none ∧
      curve .exact (ramp.wpAt 0) ramp.mode 5 = some 1500 := by decide +kernel

/-- The cache of a run in progress has its canonical form, wherever the cursor is. -/
theorem streaming_cacheWf (c : BitVec 32) (w : List WriteOutcome) : CacheWf (streaming c w) :=
  cacheWf_of_all (s := streaming 0 []) (by decide +kernel)

/-- CACHE_READ: an invalid channel; the last sample and the first index past it. -/
theorem test_witness_cacheRead :
    CacheWf (streaming 0 []) ∧ (streaming 0 []).curveValid.getLsbD (1 : Chan).val = false ∧
      ¬ (streaming 0 []).curveValid.getLsbD (0 : Chan).val = false ∧
      ¬ (streaming 0 []).stepCount ≤ (2 : BitVec 32) ∧ (streaming 0 []).stepCount ≤ (3 : BitVec 32) :=
  ⟨streaming_cacheWf _ _, by decide +kernel⟩

theorem test_witness_frame : ∀ ch : Chan, (#v[1500, 1500, 1500, 1500, 1500, 1500, 1500, 1500] : Vector Int 8)[ch] = 1500 := by
  decide +kernel

theorem test_witness_setFreq :
    (0 : BitVec 16) = 0 ∧ (1 : BitVec 16) ≠ 0 ∧ (streaming 0 []).link = .openStreaming ∧
      State.reset.link ≠ .openStreaming := by decide +kernel

/-- CONNECT: not Closed; Closed with each answer of the transport. -/
theorem test_witness_connect :
    (streaming 0 []).link ≠ .closed ∧
      (({ State.reset with openIn := [.ok] } : State).link = .closed ∧
        ({ State.reset with openIn := [.ok] } : State).nextOpen = .ok) ∧
      (({ State.reset with openIn := [.fail] } : State).link = .closed ∧
        ({ State.reset with openIn := [.fail] } : State).nextOpen ≠ .ok) := by decide +kernel

/-- Channel 0 with one waypoint, at one hertz; the step count is the rounded time plus 1. -/
def late (t : RawTime) (answer : OpenOutcome) : State := { withWp 0 [⟨t, 1500⟩] with freq := 1, openIn := [answer] }

/-- START's refusals: streaming; all empty; a step count of 65537 (V-SMP-12) and the largest allowed, 65536. -/
theorem test_witness_startRefusals :
    (streaming 0 []).link = .openStreaming ∧
    (State.reset.link ≠ .openStreaming ∧ ∀ ch : Chan, State.reset.wpAt ch = []) ∧
    ((late 0xFFFFFFFF .ok).link ≠ .openStreaming ∧ (late 0xFFFFFFFF .ok).wpAt 0 ≠ [] ∧
      65536 < roundedMaxTime (late 0xFFFFFFFF .ok) * (late 0xFFFFFFFF .ok).freq.toNat + 1) ∧
    ((late 0xFFFF0000 .fail).link = .closed ∧ (late 0xFFFF0000 .fail).wpAt 0 ≠ [] ∧
      roundedMaxTime (late 0xFFFF0000 .fail) * (late 0xFFFF0000 .fail).freq.toNat + 1 = 65536 ∧
      (late 0xFFFF0000 .fail).nextOpen = .fail) := by decide +kernel

/-- START with the link open, and from Closed with the transport answering `ok`; the start write answered `ok` and not. -/
theorem test_witness_start :
    (ramp.wpAt 0 ≠ [] ∧ roundedMaxTime ramp * ramp.freq.toNat + 1 ≤ 65536) ∧
    ({ ramp with link := .openIdle, writeIn := [.ok] } : State).link = .openIdle ∧
    ({ ramp with link := .openIdle, writeIn := [.ok] } : State).nextWrite = .ok ∧
    ({ ramp with openIn := [.ok], writeIn := [.notOpen] } : State).link = .closed ∧
    ({ ramp with openIn := [.ok], writeIn := [.notOpen] } : State).nextOpen = .ok ∧
    ({ ramp with openIn := [.ok], writeIn := [.notOpen] } : State).nextWrite = .notOpen := by decide +kernel

theorem test_witness_stop :
    State.reset.link = .closed ∧ (streaming 0 [.ok]).link ≠ .closed ∧ (streaming 0 [.ok]).nextWrite = .ok ∧
      (streaming 0 [.notOpen]).nextWrite = .notOpen ∧ (streaming 0 [.failed 3]).nextWrite = .failed 3 := by decide +kernel

/-- The strobe at 10 Hz (100 ms): Closed; one short of the interval; at it. -/
theorem test_witness_strobe :
    State.reset.link ≠ .openStreaming ∧
    (({ streaming 0 [] with tickCtr := 98 } : State).tickCtr + 1).toNat < max 1 (1000 / (streaming 0 []).freq.toNat) ∧
    max 1 (1000 / (streaming 0 []).freq.toNat) ≤ (({ streaming 0 [] with tickCtr := 99 } : State).tickCtr + 1).toNat := by
  decide +kernel

theorem test_witness_tickPendingEveryInterval :
    (streaming 0 []).link = .openStreaming ∧ (streaming 0 []).tickCtr = 0 ∧
      99 < max 1 (1000 / (streaming 0 []).freq.toNat) := by decide +kernel

/-- The tick: a data frame, the all-idle frame at `cursor = step_count`, the end. -/
theorem test_witness_tick :
    (CacheWf (streaming 2 []) ∧ (streaming 2 []).cursor ≤ (streaming 2 []).stepCount) ∧
    (CacheWf (streaming 3 []) ∧ (streaming 3 []).cursor ≤ (streaming 3 []).stepCount) ∧
    (streaming 4 []).stepCount < (streaming 4 []).cursor :=
  ⟨⟨streaming_cacheWf _ _, by decide +kernel⟩, ⟨streaming_cacheWf _ _, by decide +kernel⟩, by decide +kernel⟩

theorem test_witness_illegalOperands : WellFormed (.regRead 0x12) = false := by decide +kernel

theorem test_witness_failuresArePrecise :
    ∃ t, exec (.wpRead 0 0) State.reset = .next t ∧
      t.responses = State.reset.responses ++ [respWord .indexOutOfRange 0] := ⟨_, rfl, rfl⟩

theorem test_witness_reading : (Instr.cacheRead 0 0).opcode ∈
    [Opcode.nop, .regRead, .wpRead, .wpCount, .cacheRead, .curveEval] := by decide +kernel

/-- A STOP that changes the link, and a tick that moves the cursor. -/
theorem test_witness_link :
    ∃ t, step ((streaming 0 [.ok]).withCommand 0xE800000000000000) = .next t ∧ (t.link != .openStreaming) = true :=
  of_stepGives (by decide +kernel)
theorem test_witness_cursor :
    ∃ t, step { streaming 0 [.ok] with sched := [.tick] } = .next t ∧ (t.cursor != 0) = true :=
  of_stepGives (by decide +kernel)

/-- The invariant in a state that streams, and a step from it. -/
def aboutToEnd : State := { streaming 4 [.ok] with sched := [.tick] }
theorem aboutToEnd_inv : Inv aboutToEnd :=
  ⟨by decide +kernel, streaming_cacheWf 4 [], by decide +kernel, by decide +kernel, by decide +kernel⟩
theorem test_witness_inv : Inv aboutToEnd ∧ ∃ t, step aboutToEnd = .next t ∧ (t.link == .closed) = true :=
  ⟨aboutToEnd_inv, of_stepGives (by decide +kernel)⟩

theorem test_witness_history :
    HistoryOf [.opened 0 0 .ok, .wrote Config.startSeq .ok] .openStreaming ∧
      .wrote Config.startSeq .ok ∈ [TransportEvent.opened 0 0 .ok, .wrote Config.startSeq .ok] :=
  ⟨.startOk (h := [.opened 0 0 .ok]) (.openOk (h := []) 0 0 .empty), by decide +kernel⟩

theorem test_witness_records :
    ({ streaming 0 [.ok] with sched := [.tick] } : State).takeMove.1 ≠ .reset ∧
      ∃ t, step { streaming 0 [.ok] with sched := [.tick] } = .next t ∧ (t.cursor == 1) = true :=
  ⟨by decide +kernel, of_stepGives (by decide +kernel)⟩

theorem test_witness_stopWins :
    ∃ s : State, s.link = .openStreaming ∧ s.tickPending = true ∧ s.cmd = some 0xE800000000000000 ∧
      s.sched = [.tick, .command, .tick] ++ [] :=
  ⟨{ streaming 0 [] with cmd := some 0xE800000000000000, sched := [.tick, .command, .tick] }, by decide +kernel⟩

/-- The ends of a run: a STOP (above), the end-of-sequence tick, a failed frame write, reset. -/
theorem test_witness_endsOfARun :
    (∃ t, step { streaming 4 [.ok] with sched := [.tick] } = .next t ∧ (t.link != .openStreaming) = true) ∧
    (∃ t, step { streaming 0 [.notOpen, .ok] with sched := [.tick] } = .next t ∧ (t.link != .openStreaming) = true) ∧
    (∃ t, step { streaming 0 [] with sched := [.reset] } = .next t ∧ (t.link != .openStreaming) = true) :=
  ⟨of_stepGives (by decide +kernel), of_stepGives (by decide +kernel), of_stepGives (by decide +kernel)⟩

/-- A state as START leaves it, with five writes answered `ok`. -/
def started : State := { streaming 0 [.ok, .ok, .ok, .ok, .ok] with tickPending := false }
theorem test_witness_wholeRun :
    Inv started ∧ started.link = .openStreaming ∧ started.stepCount.toNat = 3 ∧ started.cursor = 0 ∧
      started.tickCtr = 0 ∧ started.tickPending = false ∧ started.cmd = none ∧
      started.writeIn = List.replicate (3 + 2) .ok ++ [] :=
  ⟨⟨by decide +kernel, streaming_cacheWf 0 [], by decide +kernel, by decide +kernel, by decide +kernel⟩,
    by decide +kernel⟩

/-- A snapshot with waypoints on the first and the last channel. -/
def snapshot : Snapshot := ⟨.linear, 1, #v[three, [], [], [], [], [], [], three]⟩
theorem test_witness_save :
    WpWf ramp ∧ ∀ ch : Chan, (#v[2, 0, 0, 0, 0, 0, 0, 0] : Vector Nat 8)[ch] = (ramp.wpAt ch).length := by
  decide +kernel
/-- Two waypoints removed with a poll before, between and after, the empty channels polled once (program P7). -/
theorem test_witness_load :
    (∀ ch : Chan, (#v[[0, 1, 1], [0], [0], [0], [0], [0], [0], [0]] : Vector (List Nat) 8)[ch] ≠ [] ∧
      (#v[[0, 1, 1], [0], [0], [0], [0], [0], [0], [0]] : Vector (List Nat) 8)[ch].sum = (ramp.wpAt ch).length) ∧
    snapshot.freq ≠ 0 ∧
      ∀ ch : Chan, snapshot.wp[ch].Pairwise (fun a b => a.time < b.time) ∧ snapshot.wp[ch].length ≤ 256 := by
  decide +kernel

end Sys2Proof.Tests
end

section
/-! PROOFS of the family spec/00_scope.md: the response port. -/

namespace Sys2Proof.Machine

/-- Settles O10: the response is `respWord e d`, whose two fields `respErr_respWord` and `respData_respWord` give;
`fail` is `respond` with data 0 after the code's write to `last_err`. -/
theorem respondAndFail : Obligations.RespondAndFail := by
  unfold Obligations.RespondAndFail
  constructor
  · intro s e d
    exact ⟨respWord e d, rfl, respErr_respWord e d, respData_respWord e d⟩
  · intro s e
    exact ⟨respWord e 0, rfl, respErr_respWord e 0, respData_respWord e 0⟩

end Sys2Proof.Machine
end

section
/-! PROOFS of the family spec/10_state.md, first part: what every command can do, and what the rebuild keeps. -/

namespace Sys2Proof.Machine

/-- What any command can do: fail with a precise code and nothing else, make its edit and respond OK, or be one of the
three commands that use the transport. -/
theorem exec_cases {i : Instr} {s t : State} (h : exec i s = .next t) :
    (∃ e, PreciseCode e ∧ t = s.fail e) ∨ (∃ u d, Edit i s u ∧ t = u.respond .ok d) ∨
    (i = .connect ∧ t = connectOp s) ∨ (i = .start ∧ t = startOp Config.params s) ∨ (i = .stop ∧ t = stopOp s) := by
  by_cases hc : i = .connect
  · subst hc
    exact .inr (.inr (.inl ⟨rfl, (Host.Outcome.next.inj h).symm⟩))
  by_cases hb : i = .start
  · subst hb
    exact .inr (.inr (.inr (.inl ⟨rfl, (Host.Outcome.next.inj h).symm⟩)))
  by_cases hs : i = .stop
  · subst hs
    exact .inr (.inr (.inr (.inr ⟨rfl, (Host.Outcome.next.inj h).symm⟩)))
  rcases exec_plain h hc hb hs with hfail | hedit
  · exact .inl hfail
  · exact .inr (.inl hedit)

/-- The rebuild keeps every event bit that is set (spec/43_sampler_cache.md R92). -/
theorem rebuild_events (p : Params) (s : State) :
    (rebuild p s).events = s.events ∨ (rebuild p s).events = s.events ||| 0x0004 := by
  rw [rebuild_eq]
  by_cases ha : anyEmpty s = true
  · exact .inr (if_pos ha)
  · exact .inl (if_neg ha)

@[simp] theorem rebuild_cursor (p : Params) (s : State) : (rebuild p s).cursor = s.cursor := by rw [rebuild_eq]

end Sys2Proof.Machine
end

section
/-! PROOFS of the family spec/10_state.md, second part: reset (R38). -/

namespace Sys2Proof.Machine

/-- No sample can be read right after reset: every channel is invalid (R38; spec/43_sampler_cache.md R93). -/
theorem exec_cacheRead_reset (ch : Chan) (k : BitVec 32) :
    exec (.cacheRead ch k) State.reset = .next (State.reset.fail .insufficientData) := by
  have hv : State.reset.validAt ch = false := by revert ch; decide
  show execCacheRead ch k State.reset = _
  unfold execCacheRead
  rw [if_pos hv]

/-- A reset move leaves the reset state, and of the old state only what the agents outside will do (log 14). -/
theorem step_reset {s : State} {rest : List Move} (h : s.sched = .reset :: rest) :
    step s = .next ({ s with sched := rest } : State).resetStep := by
  unfold step
  rw [takeMove_cons h]
  rfl

/-- Settles O9: the values are those written in `State.reset`; the reset move's state is `step_reset`'s, field by field. -/
theorem resetLeavesTheSpecsValues : Obligations.ResetLeavesTheSpecsValues := by
  unfold Obligations.ResetLeavesTheSpecsValues
  constructor
  · have hwp : ∀ ch : Chan, State.reset.wpAt ch = [] := by decide
    exact ⟨rfl, rfl, rfl, rfl, rfl, hwp, rfl, rfl, rfl, rfl, rfl, rfl, rfl, rfl, rfl, rfl, rfl, rfl, rfl, rfl, rfl,
      exec_cacheRead_reset⟩
  · intro s rest h
    exact ⟨_, step_reset h, rfl, rfl, rfl, rfl, rfl, rfl, rfl, rfl⟩

/-- The reset state meets the block's invariant. -/
theorem reset_inv : Inv State.reset :=
  ⟨reset_wpWf, reset_cacheWf, by decide, by decide, by decide⟩

/-- Settles O50: `reset_inv`, and the empty history is the one a closed link starts from. -/
theorem invariantAtReset : Obligations.InvariantAtReset := ⟨reset_inv, .empty⟩

end Sys2Proof.Machine
end

section
/-! PROOFS of the family spec/10_state.md, third part: every step keeps the invariant. First the ranges that the rebuild
derives (R25), then one lemma for each way the state changes, then the commands, the autonomous steps and the step. -/

namespace Sys2Proof.Machine

/-- The largest raw waypoint time fits the 32 bits of a time (spec/43_sampler_cache.md R88). -/
theorem maxRawTime_lt (s : State) : maxRawTime s < 2 ^ 32 := by
  refine List.foldlRecOn (motive := (· < 2 ^ 32)) _ max (by decide) fun m hm x hx => max_lt hm ?_
  obtain ⟨l, -, hx⟩ := List.mem_flatMap.1 hx
  obtain ⟨w, -, rfl⟩ := List.mem_map.1 hx
  exact w.time.isLt

/-- `rmax` is at most 65536 (R25; spec/43_sampler_cache.md R89). -/
theorem roundedMaxTime_le (s : State) : roundedMaxTime s ≤ 65536 := by
  have h := maxRawTime_lt s
  simp only [roundedMaxTime, roundHalfEven]
  split
  · omega
  · split <;> omega

/-- Off the stream the timer's form is that both of its fields are 0 (R33). -/
theorem timerWf_of_not_streaming {s : State} (hl : s.link ≠ .openStreaming)
    (h : s.tickCtr = 0 ∧ s.tickPending = false) : TimerWf s := by
  rwa [TimerWf, if_neg hl]

theorem timer_zero {s : State} (hl : s.link ≠ .openStreaming) (h : TimerWf s) :
    s.tickCtr = 0 ∧ s.tickPending = false := by
  rwa [TimerWf, if_neg hl] at h

/-- While streaming the timer's form is the bound on the counter (R33). -/
theorem timerWf_of_streaming {s : State} (hl : s.link = .openStreaming) (h : s.tickCtr.toNat < interval s.freq) :
    TimerWf s := by
  rwa [TimerWf, if_pos hl]

theorem tickCtr_lt {s : State} (hl : s.link = .openStreaming) (h : TimerWf s) : s.tickCtr.toNat < interval s.freq := by
  rwa [TimerWf, if_pos hl] at h

/-- The reserved bits stay 0 when an event is raised (R29). -/
theorem reserved_or {a b : BitVec 16} (ha : a &&& 0xFFF0 = 0) (hb : b &&& 0xFFF0 = 0) :
    (a ||| b) &&& 0xFFF0 = 0 := by
  rw [BitVec.and_or_distrib_right, ha, hb]
  rfl

/-- The reserved bits stay 0 when bits are cleared (R29). -/
theorem reserved_and {a : BitVec 16} (b : BitVec 16) (ha : a &&& 0xFFF0 = 0) : a &&& b &&& 0xFFF0 = 0 := by
  rw [BitVec.and_assoc, BitVec.and_comm b, ← BitVec.and_assoc, ha]
  exact BitVec.zero_and

/-! ### One lemma for each way the state changes -/

/-- The invariant speaks of the block's state alone: no record, waiting command or coming input matters. -/
theorem inv_of_blockOnly_eq {s t : State} (h : Inv s) (hst : s.blockOnly = t.blockOnly) : Inv t := by
  have hb : Inv t.blockOnly := hst ▸ (show Inv s.blockOnly from h)
  exact hb

/-- A failure keeps the invariant: it records a code that the block produces (spec/00_scope.md R14). -/
theorem fail_inv {s : State} (h : Inv s) {e : ErrCode} (he : e ≠ .wrongChannelCount) : Inv (s.fail e) := by
  obtain ⟨hw, hc, ht, ⟨hf, hev, hen, -, hr⟩, hs⟩ := h
  exact ⟨hw, hc, ht, ⟨hf, hev, hen, he, hr⟩, hs⟩

/-- A stop, forced or not, keeps the invariant (spec/45_scheduler.md R102). -/
theorem stopped_inv {s : State} (h : Inv s) {e : ErrCode} (he : e ≠ .wrongChannelCount) {ev : BitVec 16}
    (hev : ev &&& 0xFFF0 = 0) :
    Inv { s with tickPending := false, tickCtr := 0, link := .closed, lastErr := e, events := ev } := by
  obtain ⟨hw, hc, -, ⟨hf, -, hen, -, hr⟩, -⟩ := h
  exact ⟨hw, hc, timerWf_of_not_streaming (by simp) ⟨rfl, rfl⟩, ⟨hf, hev, hen, he, hr⟩, by simp [StreamWf]⟩

/-- Opening a closed link keeps the invariant (R106, R107): the timer is 0 on both sides. -/
theorem opened_inv {s : State} (h : Inv s) (hl : s.link = .closed) : Inv { s with link := .openIdle } := by
  obtain ⟨hw, hc, ht, hr, -⟩ := h
  have hz := timer_zero (by simp [hl]) ht
  exact ⟨hw, hc, timerWf_of_not_streaming (by simp) hz, hr, by simp [StreamWf]⟩

/-- Entering the stream with a cache that is not empty keeps the invariant (R107). -/
theorem started_inv {s : State} (h : Inv s) (hn : 1 ≤ s.stepCount.toNat) :
    Inv { s with cursor := 0, tickCtr := 0, tickPending := false, link := .openStreaming } := by
  obtain ⟨hw, hc, -, ⟨hf, hev, hen, he, hrm, hsc, -⟩, -⟩ := h
  exact ⟨hw, hc, timerWf_of_streaming rfl (interval_pos s.freq),
    ⟨hf, hev, hen, he, hrm, hsc, Nat.zero_le _⟩, fun _ => ⟨hn, Nat.zero_le _⟩⟩

/-- A written frame moves the cursor at most one past the end (R110, R18). -/
theorem advanced_inv {s : State} (h : Inv s) (hl : s.link = .openStreaming) (hc : s.cursor ≤ s.stepCount) :
    Inv { s with tickPending := false, cursor := s.cursor + 1 } := by
  obtain ⟨hw, hca, ht, ⟨hf, hev, hen, he, hrm, hsc, -⟩, hs⟩ := h
  have hlt := tickCtr_lt hl ht
  have hcur : (s.cursor + 1).toNat ≤ s.stepCount.toNat + 1 := by bv_omega
  exact ⟨hw, hca, timerWf_of_streaming hl hlt,
    ⟨hf, hev, hen, he, hrm, hsc, hcur.trans (Nat.succ_le_succ hsc)⟩, fun _ => ⟨(hs hl).1, hcur⟩⟩

/-- A new counter value below the interval, with whatever pends and is raised, keeps the invariant of a stream (R33). -/
theorem counted_inv {s : State} (h : Inv s) (hl : s.link = .openStreaming) {c : BitVec 16} (p : Bool)
    (hc : c.toNat < interval s.freq) {ev : BitVec 16} (hev : ev &&& 0xFFF0 = 0) :
    Inv { s with tickCtr := c, tickPending := p, events := ev } := by
  obtain ⟨hw, hca, -, ⟨hf, -, hr⟩, hs⟩ := h
  exact ⟨hw, hca, timerWf_of_streaming hl hc, ⟨hf, hev, hr⟩, hs⟩

/-- A new frequency, the counter restarted while streaming, keeps the invariant (spec/45_scheduler.md R103). -/
theorem freq_inv {s : State} (h : Inv s) {f : BitVec 16} (hf : f ≠ 0) :
    Inv { s with freq := f, tickCtr := if s.link = LinkState.openStreaming then 0 else s.tickCtr } := by
  obtain ⟨hw, hc, ht, ⟨-, hr⟩, hs⟩ := h
  refine ⟨hw, hc, ?_, ⟨hf, hr⟩, hs⟩
  by_cases hl : s.link = .openStreaming
  · rw [if_pos hl]
    exact timerWf_of_streaming hl (interval_pos f)
  · rw [if_neg hl]
    have hz := timer_zero hl ht
    exact timerWf_of_not_streaming hl hz

/-- The rebuild off the stream keeps the invariant when its check has passed (spec/43_sampler_cache.md R90, R92). -/
theorem rebuild_inv {s : State} (h : Inv s) (hl : s.link ≠ .openStreaming) (hn : stepCountFor s ≤ 65536) :
    Inv (rebuild Config.params s) := by
  have hcache : CacheWf (rebuild Config.params s) := rebuild_cacheWf s (by omega)
  have hrm := roundedMaxTime_le s
  obtain ⟨hw, -, ht, ⟨hf, hev, hen, he, -, -, hcur⟩, -⟩ := h
  have hev' : (rebuild Config.params s).events &&& 0xFFF0 = 0 := by
    rcases rebuild_events Config.params s with h | h
    · rw [h]; exact hev
    · rw [h]; exact reserved_or hev (by decide)
  rw [rebuild_eq] at hcache hev' ⊢
  refine ⟨hw, hcache, ht, ⟨hf, hev', hen, he, ?_, ?_, hcur⟩, fun hs => absurd hs hl⟩
  · rwa [BitVec.toNat_ofNat, Nat.mod_eq_of_lt (by omega)]
  · rwa [BitVec.toNat_ofNat, Nat.mod_eq_of_lt (by omega)]

/-- The step count a rebuild leaves is at least 1 (R25, R90). -/
theorem rebuild_stepCount_pos (p : Params) {s : State} (hn : stepCountFor s ≤ 65536) :
    1 ≤ (rebuild p s).stepCount.toNat := by
  rw [rebuild_eq, BitVec.toNat_ofNat, Nat.mod_eq_of_lt (by omega)]
  exact Nat.le_add_left 1 _

/-- The code of a write is never WrongChannelCount (R100). -/
theorem WriteOutcome.errCode_ne_wrongChannelCount (w : WriteOutcome) : w.errCode ≠ .wrongChannelCount := by
  cases w <;> simp [WriteOutcome.errCode]

/-- The code a stop leaves in `last_err` (R108, R110): the write's, or the one that was there. -/
theorem stop_lastErr_ne {s : State} (h : Inv s) :
    (if s.nextWrite = .ok then s.lastErr else s.nextWrite.errCode) ≠ .wrongChannelCount := by
  obtain ⟨-, -, -, ⟨-, -, -, he, -⟩, -⟩ := h
  split
  · exact he
  · exact s.nextWrite.errCode_ne_wrongChannelCount

/-- The reserved event bits of a state in the invariant are 0. -/
theorem reserved_events {s : State} (h : Inv s) : s.events &&& 0xFFF0 = 0 := by
  obtain ⟨-, -, -, ⟨-, hev, -⟩, -⟩ := h
  exact hev

/-! ### The commands -/

/-- The edits of the commands that use no transport keep the invariant. -/
theorem edit_inv {i : Instr} {s u : State} (he : Edit i s u) (h : Inv s) : Inv u := by
  cases he with
  | eventEn a m _ hm =>
    obtain ⟨hw, hc, ht, ⟨hf, hev, -, hr⟩, hs⟩ := h
    exact ⟨hw, hc, ht, ⟨hf, hev, hm, hr⟩, hs⟩
  | events a m =>
    obtain ⟨hw, hc, ht, ⟨hf, hev, hr⟩, hs⟩ := h
    exact ⟨hw, hc, ht, ⟨hf, reserved_and _ hev, hr⟩, hs⟩
  | wp _ ch l _ hl =>
    obtain ⟨hw, hc, ht, hr, hs⟩ := h
    exact ⟨setWp_wpWf hw ch (hl (hw ch).1 (hw ch).2), hc, ht, hr, hs⟩
  | freq a f _ hf => exact freq_inv h hf
  | nothing | crc | mode | port | baud => exact h

theorem connectOp_inv {s : State} (h : Inv s) : Inv (connectOp s) := by
  rcases connectOp_cases s with ⟨-, hx⟩ | ⟨-, hx⟩ | ⟨hl, hx⟩
  · rw [hx]; exact fail_inv h (by decide)
  · rw [hx]; exact inv_of_blockOnly_eq (fail_inv h (by decide)) rfl
  · rw [hx]; exact inv_of_blockOnly_eq (opened_inv h hl) rfl

theorem stopOp_inv {s : State} (h : Inv s) : Inv (stopOp s) := by
  rcases stopOp_cases s with ⟨-, hx⟩ | ⟨-, hx⟩
  · rw [hx]; exact h
  · rw [hx]; exact inv_of_blockOnly_eq (stopped_inv h (stop_lastErr_ne h) (reserved_events h)) rfl

/-- START from the rebuild on (R107): a begun stream, or a forced stop. -/
theorem beginStream_inv {s : State} (h : Inv s) (hl : s.link ≠ .openStreaming) (hn : stepCountFor s ≤ 65536) :
    Inv (beginStream Config.params s) := by
  have hb := rebuild_inv h hl hn
  have hpos := rebuild_stepCount_pos Config.params hn
  have hx := beginStream_cases Config.params s
  generalize rebuild Config.params s = b at hb hpos hx
  rcases hx with hx | ⟨w, w', -, hx⟩
  · rw [hx]
    exact inv_of_blockOnly_eq (started_inv hb hpos) rfl
  · rw [hx]
    have hev := reserved_or (b := 0x0002) (reserved_events hb) (by decide)
    exact inv_of_blockOnly_eq (stopped_inv hb w.errCode_ne_wrongChannelCount hev) rfl

theorem startOp_inv {s : State} (h : Inv s) : Inv (startOp Config.params s) := by
  rcases startOp_cases Config.params s with ⟨e, ⟨-, he, -⟩, hx⟩ | ⟨-, hx⟩ | ⟨u, hr, hx, hu⟩
  · rw [hx]; exact fail_inv h he
  · rw [hx]; exact inv_of_blockOnly_eq (fail_inv h (by decide)) rfl
  · have hn : stepCountFor s ≤ 65536 := (rebuildCheck_none hr).2
    rw [hx]
    rcases hu with ⟨hl, rfl⟩ | ⟨hl, rfl⟩
    · exact beginStream_inv h (by simp [hl]) hn
    · exact beginStream_inv (inv_of_blockOnly_eq (opened_inv h hl) rfl) (by simp) hn

/-- Every command keeps the invariant. -/
theorem exec_inv {i : Instr} {s t : State} (h : Inv s) (hx : exec i s = .next t) : Inv t := by
  rcases exec_cases hx with ⟨e, ⟨-, he, -⟩, rfl⟩ | ⟨u, d, he, rfl⟩ | ⟨-, rfl⟩ | ⟨-, rfl⟩ | ⟨-, rfl⟩
  · exact fail_inv h he
  · exact inv_of_blockOnly_eq (edit_inv he h) rfl
  · exact connectOp_inv h
  · exact startOp_inv h
  · exact stopOp_inv h

theorem performCommand_inv {w : CmdWord} {s t : State} (h : Inv s) (hx : performCommand w s = .next t) : Inv t := by
  rcases performCommand_cases hx with ⟨-, -, rfl⟩ | ⟨i, -, hi⟩
  · exact fail_inv h (by decide)
  · exact exec_inv h hi

/-! ### The autonomous steps -/

theorem strobe_inv {s : State} (h : Inv s) : Inv s.strobe := by
  have hev := reserved_events h
  have hpos : (0 : BitVec 16).toNat < interval s.freq := interval_pos s.freq
  rcases strobe_cases s with hx | ⟨hl, hc, hx⟩ | ⟨hl, -, hx⟩ | ⟨hl, hx⟩
  · rw [hx]; exact h
  · rw [hx]; exact counted_inv h hl s.tickPending hc hev
  · rw [hx]; exact counted_inv h hl s.tickPending hpos (reserved_or hev (by decide))
  · rw [hx]; exact counted_inv h hl true hpos hev

theorem tick_inv {s : State} (h : Inv s) (hl : s.link = .openStreaming) : Inv s.tick := by
  have hforced := reserved_or (b := 0x0002) (reserved_events h) (by decide)
  have hdone := reserved_or (b := 0x0001) (reserved_events h) (by decide)
  rcases tick_cases s with ⟨hc, hx⟩ | ⟨-, w, w', -, hx⟩ | ⟨-, hx⟩
  · rw [hx]; exact inv_of_blockOnly_eq (advanced_inv h hl hc) rfl
  · rw [hx]; exact inv_of_blockOnly_eq (stopped_inv h w.errCode_ne_wrongChannelCount hforced) rfl
  · rw [hx]; exact inv_of_blockOnly_eq (stopped_inv h (stop_lastErr_ne h) hdone) rfl

/-- Settles O51: by the agent that moves. Taking the move reads and writes nothing that the invariant speaks of; a
command, a strobe, a tick and reset each have their lemma above. -/
theorem stepKeepsTheInvariant : Obligations.StepKeepsTheInvariant := by
  intro s t h hstep
  obtain ⟨u, ms, n, -, hu, hcase⟩ := step_cases hstep
  have hui : Inv u := by rw [hu]; exact h
  have hul : u.link = s.link := by rw [hu]
  rcases hcase with ⟨w, -, -, rfl⟩ | ⟨-, -, rfl⟩ | ⟨w, -, -, hx⟩ | ⟨-, rfl⟩ | ⟨-, hl, -, -, rfl⟩ | ⟨-, rfl⟩ | ⟨-, rfl⟩
  · exact hui
  · exact hui
  · exact performCommand_inv (s := { u with cmd := none }) hui hx
  · exact strobe_inv hui
  · exact tick_inv hui (hul.trans hl)
  · exact hui
  · exact reset_inv

end Sys2Proof.Machine
end

section
/-! PROOFS of the family spec/10_state.md, fourth part: who writes the cursor (R24, R18) and who clears an event bit
(R29). For each command and each autonomous step, what it does to the one register. -/

namespace Sys2Proof.Machine

/-! ### The cursor -/

theorem edit_cursor {i : Instr} {s u : State} (he : Edit i s u) : u.cursor = s.cursor := by
  cases he <;> rfl

theorem connectOp_cursor (s : State) : (connectOp s).cursor = s.cursor := by
  rcases connectOp_cases s with ⟨-, hx⟩ | ⟨-, hx⟩ | ⟨-, hx⟩ <;> rw [hx] <;> rfl

theorem stopOp_cursor (s : State) : (stopOp s).cursor = s.cursor := by
  rcases stopOp_cases s with ⟨-, hx⟩ | ⟨-, hx⟩ <;> rw [hx] <;> rfl

theorem beginStream_cursor (p : Params) (s : State) :
    (beginStream p s).cursor = s.cursor ∨ (beginStream p s).cursor = 0 ∧ (beginStream p s).link = .openStreaming := by
  rcases beginStream_cases p s with hx | ⟨w, w', -, hx⟩
  · rw [hx]; exact .inr ⟨rfl, rfl⟩
  · rw [hx]; exact .inl (rebuild_cursor p s)

/-- START (R107) writes the cursor only where it begins a stream. -/
theorem startOp_cursor (p : Params) (s : State) :
    (startOp p s).cursor = s.cursor ∨ (startOp p s).cursor = 0 ∧ (startOp p s).link = .openStreaming := by
  rcases startOp_cases p s with ⟨e, -, hx⟩ | ⟨-, hx⟩ | ⟨u, -, hx, hu⟩
  · rw [hx]; exact .inl rfl
  · rw [hx]; exact .inl rfl
  · have hc : u.cursor = s.cursor := by rcases hu with ⟨-, rfl⟩ | ⟨-, rfl⟩ <;> rfl
    rw [hx, ← hc]
    exact beginStream_cursor p u

/-- A command writes the cursor only if it is a START that begins a stream. -/
theorem exec_cursor {i : Instr} {s t : State} (h : exec i s = .next t) :
    t.cursor = s.cursor ∨ i = .start ∧ t.cursor = 0 ∧ t.link = .openStreaming := by
  rcases exec_cases h with ⟨e, -, rfl⟩ | ⟨u, d, he, rfl⟩ | ⟨-, rfl⟩ | ⟨hi, rfl⟩ | ⟨-, rfl⟩
  · exact .inl rfl
  · exact .inl ((respond_cursor u .ok d).trans (edit_cursor he))
  · exact .inl (connectOp_cursor s)
  · exact (startOp_cursor Config.params s).imp_right fun hs => ⟨hi, hs⟩
  · exact .inl (stopOp_cursor s)

theorem performCommand_cursor {w : CmdWord} {s t : State} (h : performCommand w s = .next t) :
    t.cursor = s.cursor ∨ decode w = .ok .start ∧ t.cursor = 0 ∧ t.link = .openStreaming := by
  rcases performCommand_cases h with ⟨-, -, rfl⟩ | ⟨i, hd, hx⟩
  · exact .inl rfl
  · exact (exec_cursor hx).imp_right fun ⟨hi, hs⟩ => ⟨hi ▸ hd, hs⟩

@[simp] theorem strobe_cursor (s : State) : s.strobe.cursor = s.cursor := by
  rcases strobe_cases s with hx | ⟨-, -, hx⟩ | ⟨-, -, hx⟩ | ⟨-, hx⟩ <;> rw [hx]

/-- A tick (R110) moves the cursor by one where its frame was written, and then the stream goes on. -/
theorem tick_cursor (s : State) : s.tick.cursor = s.cursor ∨ s.tick.cursor = s.cursor + 1 ∧ s.tick.link = s.link := by
  rcases tick_cases s with ⟨-, hx⟩ | ⟨-, w, w', -, hx⟩ | ⟨-, hx⟩
  · rw [hx]; exact .inr ⟨rfl, rfl⟩
  · rw [hx]; exact .inl rfl
  · rw [hx]; exact .inl rfl

/-- Settles O47: by the agent that moves; a move that leaves the cursor contradicts the hypothesis. -/
theorem onlyStartAndTickMoveTheCursor : Obligations.OnlyStartAndTickMoveTheCursor := by
  intro s t hstep hne
  obtain ⟨u, ms, n, -, hu, hcase⟩ := step_cases hstep
  have huc : u.cursor = s.cursor := by rw [hu]
  have hul : u.link = s.link := by rw [hu]
  rcases hcase with ⟨w, -, -, rfl⟩ | ⟨-, -, rfl⟩ | ⟨w, hm, hw, hx⟩ | ⟨-, rfl⟩ | ⟨hm, hl, -, -, rfl⟩ | ⟨-, rfl⟩ | ⟨hm, rfl⟩
  · exact absurd huc hne
  · exact absurd huc hne
  · rw [hm]
    obtain hc | ⟨hd, hs⟩ := performCommand_cursor hx
    · exact absurd (hc.trans huc) hne
    · exact ⟨⟨w, hw, hd⟩, hs⟩
  · exact absurd ((strobe_cursor u).trans huc) hne
  · rw [hm]
    obtain hc | ⟨hc, htl⟩ := tick_cursor u
    · exact absurd (hc.trans huc) hne
    · exact ⟨by rw [hc, huc], hl, by rw [htl, hul, hl]⟩
  · exact absurd huc hne
  · rw [hm]
    rfl

/-! ### The event bits -/

/-- Every event bit set in `s` is set in `t` (R29). -/
abbrev KeepsEvents (s t : State) : Prop := t.events &&& s.events = s.events

theorem keepsEvents_of_eq {s t : State} (h : t.events = s.events) : KeepsEvents s t := by
  rw [KeepsEvents, h, BitVec.and_self]

/-- Raising an event keeps the others (R29). -/
theorem keepsEvents_of_or {s t : State} (m : BitVec 16) (h : t.events = s.events ||| m) : KeepsEvents s t := by
  rw [KeepsEvents, h]
  ext i hi
  simp +contextual

theorem keepsEvents_trans {s t u : State} (h : KeepsEvents s t) (h' : KeepsEvents t u) : KeepsEvents s u := by
  rw [KeepsEvents, ← h, ← BitVec.and_assoc, h']

theorem rebuild_keepsEvents (p : Params) (s : State) : KeepsEvents s (rebuild p s) := by
  rcases rebuild_events p s with h | h
  · exact keepsEvents_of_eq h
  · exact keepsEvents_of_or _ h

/-- Of the edits only EVT_CLEAR's writes the event register. -/
theorem edit_events {i : Instr} {s u : State} (he : Edit i s u) : u.events = s.events ∨ ∃ m, i = .evtClear m := by
  cases he with
  | events a => exact .inr ⟨a, rfl⟩
  | nothing | eventEn | crc | wp | mode | freq | port | baud => exact .inl rfl

theorem connectOp_events (s : State) : (connectOp s).events = s.events := by
  rcases connectOp_cases s with ⟨-, hx⟩ | ⟨-, hx⟩ | ⟨-, hx⟩ <;> rw [hx] <;> rfl

theorem stopOp_events (s : State) : (stopOp s).events = s.events := by
  rcases stopOp_cases s with ⟨-, hx⟩ | ⟨-, hx⟩ <;> rw [hx] <;> rfl

/-- START from the rebuild on raises EMPTY_CHANNEL, FORCED_STOP or neither, and clears nothing (R107). -/
theorem beginStream_keepsEvents (p : Params) (s : State) : KeepsEvents s (beginStream p s) := by
  refine keepsEvents_trans (rebuild_keepsEvents p s) ?_
  rcases beginStream_cases p s with hx | ⟨w, w', -, hx⟩
  · rw [hx]; exact keepsEvents_of_eq rfl
  · rw [hx]; exact keepsEvents_of_or 0x0002 rfl

theorem startOp_keepsEvents (p : Params) (s : State) : KeepsEvents s (startOp p s) := by
  rcases startOp_cases p s with ⟨e, -, hx⟩ | ⟨-, hx⟩ | ⟨u, -, hx, hu⟩
  · rw [hx]; exact keepsEvents_of_eq rfl
  · rw [hx]; exact keepsEvents_of_eq rfl
  · have hu : u.events = s.events := by rcases hu with ⟨-, rfl⟩ | ⟨-, rfl⟩ <;> rfl
    rw [hx]
    exact keepsEvents_trans (keepsEvents_of_eq hu) (beginStream_keepsEvents p u)

/-- A command clears an event bit only if it is an EVT_CLEAR. -/
theorem exec_keepsEvents {i : Instr} {s t : State} (h : exec i s = .next t) :
    KeepsEvents s t ∨ ∃ m, i = .evtClear m := by
  rcases exec_cases h with ⟨e, -, rfl⟩ | ⟨u, d, he, rfl⟩ | ⟨-, rfl⟩ | ⟨-, rfl⟩ | ⟨-, rfl⟩
  · exact .inl (keepsEvents_of_eq rfl)
  · exact (edit_events he).imp_left keepsEvents_of_eq
  · exact .inl (keepsEvents_of_eq (connectOp_events s))
  · exact .inl (startOp_keepsEvents Config.params s)
  · exact .inl (keepsEvents_of_eq (stopOp_events s))

theorem performCommand_keepsEvents {w : CmdWord} {s t : State} (h : performCommand w s = .next t) :
    KeepsEvents s t ∨ ∃ m, decode w = .ok (.evtClear m) := by
  rcases performCommand_cases h with ⟨-, -, rfl⟩ | ⟨i, hd, hx⟩
  · exact .inl (keepsEvents_of_eq rfl)
  · exact (exec_keepsEvents hx).imp_right fun ⟨m, hi⟩ => ⟨m, hi ▸ hd⟩

theorem strobe_keepsEvents (s : State) : KeepsEvents s s.strobe := by
  rcases strobe_cases s with hx | ⟨-, -, hx⟩ | ⟨-, -, hx⟩ | ⟨-, hx⟩
  · rw [hx]; exact keepsEvents_of_eq rfl
  · rw [hx]; exact keepsEvents_of_eq rfl
  · rw [hx]; exact keepsEvents_of_or 0x0008 rfl
  · rw [hx]; exact keepsEvents_of_eq rfl

theorem tick_keepsEvents (s : State) : KeepsEvents s s.tick := by
  rcases tick_cases s with ⟨-, hx⟩ | ⟨-, w, w', -, hx⟩ | ⟨-, hx⟩
  · rw [hx]; exact keepsEvents_of_eq rfl
  · rw [hx]; exact keepsEvents_of_or 0x0002 rfl
  · rw [hx]; exact keepsEvents_of_or 0x0001 rfl

/-- Settles O49: by the agent that moves. -/
theorem eventsStayUntilCleared : Obligations.EventsStayUntilCleared := by
  intro s t hstep
  obtain ⟨u, ms, n, -, hu, hcase⟩ := step_cases hstep
  have hue : u.events = s.events := by rw [hu]
  have same : KeepsEvents s u := keepsEvents_of_eq hue
  rcases hcase with ⟨w, -, -, rfl⟩ | ⟨-, -, rfl⟩ | ⟨w, hm, hw, hx⟩ | ⟨-, rfl⟩ | ⟨-, -, -, -, rfl⟩ | ⟨-, rfl⟩ | ⟨hm, rfl⟩
  · exact .inl same
  · exact .inl same
  · obtain hk | ⟨m, hd⟩ := performCommand_keepsEvents hx
    · exact .inl (keepsEvents_trans same hk)
    · exact .inr (.inr ⟨hm, w, m, hw, hd⟩)
  · exact .inl (keepsEvents_trans same (strobe_keepsEvents u))
  · exact .inl (keepsEvents_trans same (tick_keepsEvents u))
  · exact .inl same
  · exact .inr (.inl hm)

end Sys2Proof.Machine
end

section
/-! PROOFS of the family spec/10_state.md, fifth part: no step reads the output history or the responses (R39, R62).
Every operation commutes with putting earlier records before a state's own. -/

namespace Sys2Proof.Machine

/-- The state with the history `h` and the responses `r` before its own. -/
def State.withEarlier (s : State) (h : List TransportEvent) (r : List RespWord) : State :=
  { s with history := h ++ s.history, responses := r ++ s.responses }

section WithEarlier

variable (s : State) (h : List TransportEvent) (r : List RespWord)

/-! What an operation reads of a state is not its records. -/

@[simp] theorem withEarlier_link : (s.withEarlier h r).link = s.link := rfl
@[simp] theorem withEarlier_mode : (s.withEarlier h r).mode = s.mode := rfl
@[simp] theorem withEarlier_cmd : (s.withEarlier h r).cmd = s.cmd := rfl
@[simp] theorem withEarlier_sched : (s.withEarlier h r).sched = s.sched := rfl
@[simp] theorem withEarlier_wpAt (ch : Chan) : (s.withEarlier h r).wpAt ch = s.wpAt ch := rfl
@[simp] theorem withEarlier_nextOpen : (s.withEarlier h r).nextOpen = s.nextOpen := rfl
@[simp] theorem withEarlier_nextWrite : (s.withEarlier h r).nextWrite = s.nextWrite := rfl
@[simp] theorem withEarlier_tickEnabled : (s.withEarlier h r).tickEnabled = s.tickEnabled := rfl
@[simp] theorem withEarlier_rebuildCheck (p : Params) : rebuildCheck p (s.withEarlier h r) = rebuildCheck p s := rfl
@[simp] theorem withEarlier_tickValue : (s.withEarlier h r).tickValue = s.tickValue := rfl

/-! The shared operations add to the end of the records. -/

@[simp] theorem respond_withEarlier (e : ErrCode) (d : Data) :
    (s.withEarlier h r).respond e d = (s.respond e d).withEarlier h r := by
  simp [State.withEarlier, State.respond]

@[simp] theorem fail_withEarlier (e : ErrCode) : (s.withEarlier h r).fail e = (s.fail e).withEarlier h r :=
  respond_withEarlier { s with lastErr := e } h r e 0

@[simp] theorem record_withEarlier (e : TransportEvent) :
    (s.withEarlier h r).record e = (s.record e).withEarlier h r := by
  simp [State.withEarlier, State.record]

@[simp] theorem transportOpen_withEarlier :
    (s.withEarlier h r).transportOpen = (s.transportOpen.1, s.transportOpen.2.withEarlier h r) :=
  Prod.ext rfl (record_withEarlier s.dropOpen h r _)

@[simp] theorem transportWrite_withEarlier (bytes : List Byte) : (s.withEarlier h r).transportWrite bytes =
    ((s.transportWrite bytes).1, (s.transportWrite bytes).2.withEarlier h r) :=
  Prod.ext rfl (record_withEarlier s.dropWrite h r _)

@[simp] theorem openLink_withEarlier :
    (s.withEarlier h r).openLink = (s.openLink.1, s.openLink.2.withEarlier h r) := by
  unfold State.openLink
  rw [transportOpen_withEarlier]
  cases s.transportOpen.1 <;> rfl

@[simp] theorem stopSequence_withEarlier :
    (s.withEarlier h r).stopSequence = (s.stopSequence.1, s.stopSequence.2.withEarlier h r) := by
  simp [stopSequence_eq, State.withEarlier, State.dropWrite, State.nextWrite]

@[simp] theorem forcedStop_withEarlier (e : ErrCode) :
    (s.withEarlier h r).forcedStop e = (s.forcedStop e).withEarlier h r := by
  unfold State.forcedStop
  rw [stopSequence_withEarlier]
  rfl

@[simp] theorem rebuild_withEarlier (p : Params) :
    rebuild p (s.withEarlier h r) = (rebuild p s).withEarlier h r := by
  rw [rebuild_eq, rebuild_eq]
  rfl

/-! The commands that use the transport. -/

theorem connectOp_withEarlier : connectOp (s.withEarlier h r) = (connectOp s).withEarlier h r := by
  simp only [connectOp, withEarlier_link, openLink_withEarlier]
  split
  · cases s.openLink.1
    · exact respond_withEarlier ..
    · exact fail_withEarlier ..
  · exact fail_withEarlier ..

theorem stopOp_withEarlier : stopOp (s.withEarlier h r) = (stopOp s).withEarlier h r := by
  simp only [stopOp, withEarlier_link, stopSequence_withEarlier]
  split
  · exact respond_withEarlier ..
  · split
    · exact respond_withEarlier ..
    · exact respond_withEarlier { s.stopSequence.2 with lastErr := s.stopSequence.1.errCode } ..

theorem beginStream_withEarlier (p : Params) :
    beginStream p (s.withEarlier h r) = (beginStream p s).withEarlier h r := by
  simp only [beginStream, rebuild_withEarlier, transportWrite_withEarlier]
  split
  · exact respond_withEarlier { ((rebuild p s).transportWrite Config.startSeq).2 with
      cursor := 0, tickCtr := 0, tickPending := false, link := .openStreaming } ..
  · rw [forcedStop_withEarlier, respond_withEarlier]

theorem startOp_withEarlier (p : Params) : startOp p (s.withEarlier h r) = (startOp p s).withEarlier h r := by
  simp only [startOp, withEarlier_link, withEarlier_rebuildCheck, openLink_withEarlier]
  split
  · exact fail_withEarlier ..
  · cases rebuildCheck p s with
    | some e => exact fail_withEarlier ..
    | none =>
      simp only
      split
      · cases s.openLink.1
        · exact beginStream_withEarlier ..
        · exact fail_withEarlier ..
      · exact beginStream_withEarlier ..

/-! The autonomous steps. -/

theorem strobe_withEarlier : (s.withEarlier h r).strobe = s.strobe.withEarlier h r := by
  unfold State.strobe
  simp only [apply_ite (State.withEarlier · h r)]
  rfl

theorem tickFrame_withEarlier : (s.withEarlier h r).tickFrame = s.tickFrame.withEarlier h r := by
  simp only [State.tickFrame, withEarlier_tickValue, transportWrite_withEarlier]
  split
  · rfl
  · exact forcedStop_withEarlier ..

theorem tickEnd_withEarlier : (s.withEarlier h r).tickEnd = s.tickEnd.withEarlier h r := by
  simp only [State.tickEnd, stopSequence_withEarlier]
  split <;> rfl

theorem tick_withEarlier : (s.withEarlier h r).tick = s.tick.withEarlier h r := by
  unfold State.tick
  simp only [apply_ite (State.withEarlier · h r), ← tickFrame_withEarlier, ← tickEnd_withEarlier]
  rfl

end WithEarlier

/-! The commands and the moves. -/

/-- The second outcome is the first with the earlier records put before the state's own. -/
abbrev AddsEarlier (h : List TransportEvent) (r : List RespWord) (o o' : Host.Outcome State Fault Refusal) : Prop :=
  ∃ t, o = .next t ∧ o' = .next (t.withEarlier h r)

theorem addsEarlier_fail (s : State) (h : List TransportEvent) (r : List RespWord) (e : ErrCode) :
    AddsEarlier h r (.next (s.fail e)) (.next ((s.withEarlier h r).fail e)) :=
  ⟨_, rfl, by rw [fail_withEarlier]⟩

theorem addsEarlier_respond (s : State) (h : List TransportEvent) (r : List RespWord) (e : ErrCode) (d : Data) :
    AddsEarlier h r (.next (s.respond e d)) (.next ((s.withEarlier h r).respond e d)) :=
  ⟨_, rfl, by rw [respond_withEarlier]⟩

/-- A check that does not read the records: the same branch is taken with and without the earlier ones. -/
theorem addsEarlier_ite {c : Prop} {d d' : Decidable c} {h : List TransportEvent} {r : List RespWord}
    {o₁ o₂ o₁' o₂' : Host.Outcome State Fault Refusal} (h₁ : AddsEarlier h r o₁ o₁') (h₂ : AddsEarlier h r o₂ o₂') :
    AddsEarlier h r (@ite _ c d o₁ o₂) (@ite _ c d' o₁' o₂') := by
  by_cases hc : c
  · rwa [if_pos hc, if_pos hc]
  · rwa [if_neg hc, if_neg hc]

theorem readReg_withEarlier (s : State) (h : List TransportEvent) (r : List RespWord) (reg : Reg) :
    readReg (s.withEarlier h r) reg = readReg s reg := by cases reg <;> rfl

/-- No command reads the records: each is a fail or a respond on a state edited in the same way. -/
theorem exec_withEarlier (i : Instr) (s : State) (h : List TransportEvent) (r : List RespWord) :
    AddsEarlier h r (exec i s) (exec i (s.withEarlier h r)) := by
  cases i with
  | nop => exact addsEarlier_respond ..
  | regRead reg =>
    simp only [exec, execRegRead, readReg_withEarlier]
    split
    · exact addsEarlier_fail ..
    · exact addsEarlier_respond ..
  | evtEn a =>
    simp only [exec, execEvtEn]
    split
    · exact addsEarlier_fail ..
    · exact addsEarlier_respond { s with eventEn := _ } ..
  | evtClear a =>
    simp only [exec, execEvtClear]
    split
    · exact addsEarlier_fail ..
    · exact addsEarlier_respond { s with events := _ } ..
  | crcClear => exact addsEarlier_respond { s with crc := _ } ..
  | crcFeed b =>
    simp only [exec, execCrcFeed]
    split
    · exact addsEarlier_fail ..
    · exact addsEarlier_respond { s with crc := _ } ..
  | wpAdd ch time pwm =>
    simp only [exec, execWpAdd, wpAddOp, apply_ite Host.Outcome.next]
    exact addsEarlier_ite (addsEarlier_fail ..) (addsEarlier_respond (s.setWp ch _) ..)
  | wpUpdate ch idx time pwm =>
    exact addsEarlier_ite (addsEarlier_fail ..) (addsEarlier_respond (s.setWp ch _) ..)
  | wpRemove ch idx => exact addsEarlier_ite (addsEarlier_fail ..) (addsEarlier_respond (s.setWp ch _) ..)
  | wpRead ch idx =>
    simp only [exec, execWpRead, withEarlier_wpAt]
    split
    · exact addsEarlier_fail ..
    · exact addsEarlier_respond ..
  | wpCount ch => exact addsEarlier_respond ..
  | setMode a =>
    simp only [exec, execSetMode]
    split
    · exact addsEarlier_fail ..
    · exact addsEarlier_respond ({ s with mode := _ } : State).markStale ..
  | curveEval ch time =>
    simp only [exec, execCurveEval, curveEvalOp, withEarlier_wpAt, withEarlier_mode]
    split
    · exact addsEarlier_fail ..
    · exact addsEarlier_respond ..
  | cacheRead ch k =>
    exact addsEarlier_ite (addsEarlier_fail ..) (addsEarlier_ite (addsEarlier_fail ..) (addsEarlier_respond ..))
  | setFreq a =>
    simp only [exec, execSetFreq]
    split
    · exact addsEarlier_fail ..
    · exact addsEarlier_respond ({ s with freq := _, tickCtr := _ } : State).markStale ..
  | setPort v => exact addsEarlier_respond { s with port := v } ..
  | setBaud v => exact addsEarlier_respond { s with baud := v } ..
  | connect => exact ⟨_, rfl, congrArg Host.Outcome.next (connectOp_withEarlier s h r)⟩
  | start => exact ⟨_, rfl, congrArg Host.Outcome.next (startOp_withEarlier s h r Config.params)⟩
  | stop => exact ⟨_, rfl, congrArg Host.Outcome.next (stopOp_withEarlier s h r)⟩

theorem performCommand_withEarlier (w : CmdWord) (s : State) (h : List TransportEvent) (r : List RespWord) :
    AddsEarlier h r (performCommand w s) (performCommand w (s.withEarlier h r)) := by
  unfold performCommand
  cases decode w with
  | ok i => exact exec_withEarlier i s h r
  | error e => exact addsEarlier_fail ..

theorem takeMove_withEarlier (s : State) (h : List TransportEvent) (r : List RespWord) :
    (s.withEarlier h r).takeMove = (s.takeMove.1, s.takeMove.2.withEarlier h r) := by
  simp only [State.takeMove, withEarlier_sched]
  split <;> rfl

/-- Every move but reset, which empties the records (spec/70_reset_and_hazards.md R135). -/
theorem runMove_withEarlier {m : Move} (hm : m ≠ .reset) {s t : State} (h : List TransportEvent) (r : List RespWord)
    (hrun : runMove m s = .next t) : runMove m (s.withEarlier h r) = .next (t.withEarlier h r) := by
  cases m with
  | present w =>
    simp only [runMove, withEarlier_cmd] at hrun ⊢
    cases hc : s.cmd with
    | none =>
      rw [hc] at hrun
      rw [← Host.Outcome.next.inj hrun]
      rfl
    | some v =>
      rw [hc] at hrun
      cases hrun
  | command =>
    simp only [runMove, withEarlier_cmd] at hrun ⊢
    cases hc : s.cmd with
    | none =>
      rw [hc] at hrun
      rw [← Host.Outcome.next.inj hrun]
    | some w =>
      rw [hc] at hrun
      obtain ⟨t', ht', hgoal⟩ := performCommand_withEarlier w { s with cmd := none } h r
      rw [Host.Outcome.next.inj (hrun.symm.trans ht')]
      exact hgoal
  | strobe =>
    rw [← Host.Outcome.next.inj hrun]
    exact congrArg Host.Outcome.next (strobe_withEarlier s h r)
  | tick =>
    rw [← Host.Outcome.next.inj hrun, runMove, withEarlier_tickEnabled, tick_withEarlier,
      apply_ite (State.withEarlier · h r)]
  | reset => exact absurd rfl hm

/-- Settles O54: taking the move reads no record (`takeMove_withEarlier`), and no move but reset does
(`runMove_withEarlier`). -/
theorem recordsAreNeverReadBack : Obligations.RecordsAreNeverReadBack := by
  intro s t h r hm hstep
  show step (s.withEarlier h r) = .next (t.withEarlier h r)
  unfold step
  rw [takeMove_withEarlier]
  exact runMove_withEarlier hm h r hstep

end Sys2Proof.Machine
end

section
/-! PROOFS of the family spec/20_memory.md, first part: the agents' moves (R48, R49), what each step is and which one
stops. -/

namespace Sys2Proof.Machine

/-- Taking the next move leaves the command port. -/
@[simp] theorem takeMove_cmd (s : State) : s.takeMove.2.cmd = s.cmd := by
  obtain ⟨ms, n, h⟩ := takeMove_eq s
  rw [h]

/-- A second command word before the response to the first is the host's fault (log 2). -/
theorem runMove_present_busy {s : State} {v : CmdWord} (w : CmdWord) (h : s.cmd = some v) :
    runMove (.present w) s = .fault .commandOutstanding := by
  simp only [runMove, h]

theorem runMove_present_idle {s : State} (w : CmdWord) (h : s.cmd = none) :
    runMove (.present w) s = .next { s with cmd := some w } := by
  simp only [runMove, h]

/-- Every command word answers a next state: `exec` for one that decodes, IllegalCommand for one that does not. -/
theorem performCommand_total (w : CmdWord) (s : State) : ∃ t, performCommand w s = .next t := by
  unfold performCommand
  cases decode w with
  | ok i => exact exec_total i s
  | error e => exact ⟨_, rfl⟩

/-- Every move answers a next state but the presenting of a word on a full port. -/
theorem runMove_total {m : Move} {s : State} (h : ∀ w v : CmdWord, m = .present w → s.cmd ≠ some v) :
    ∃ t, runMove m s = .next t := by
  cases m with
  | present w => exact ⟨_, runMove_present_idle w (Option.eq_none_iff_forall_ne_some.2 fun v => h w v rfl)⟩
  | command =>
    simp only [runMove]
    cases s.cmd with
    | none => exact ⟨_, rfl⟩
    | some w => exact performCommand_total w _
  | strobe | tick | reset => exact ⟨_, rfl⟩

/-- Settles O8: taking the move leaves the port, so the two cases are `runMove_present_busy` and `runMove_total`. -/
theorem onlyASecondCommandStops : Obligations.OnlyASecondCommandStops := by
  unfold Obligations.OnlyASecondCommandStops
  constructor
  · intro s w v hm hc
    unfold step
    rw [hm]
    exact runMove_present_busy w ((takeMove_cmd s).trans hc)
  · intro s h
    refine runMove_total fun w v hm => ?_
    rw [takeMove_cmd]
    exact h w v hm

/-- With a move listed, the step is that move on the state without it. -/
theorem step_cons {s : State} {m : Move} {rest : List Move} (h : s.sched = m :: rest) :
    step s = runMove m { s with sched := rest } := by
  unfold step
  rw [takeMove_cons h]

/-- With no move listed, the step is that of a free move (log 1). -/
theorem step_nil {s : State} (h : s.sched = []) :
    step s = step { s with sched := [Config.freeMove s.draws], draws := s.draws + 1 } := by
  unfold step
  simp only [State.takeMove, h]

/-- When the tick is enabled (spec/45_scheduler.md R110, R111). -/
theorem tickEnabled_iff (s : State) :
    s.tickEnabled = true ↔ s.link = .openStreaming ∧ s.tickPending = true ∧ s.cmd = none := by
  simp [State.tickEnabled, and_assoc]

theorem runMove_tick_enabled {s : State} (h : s.tickEnabled = true) : runMove .tick s = .next s.tick := by
  rw [runMove, if_pos h]

theorem runMove_tick_disabled {s : State} (h : ¬ s.tickEnabled = true) : runMove .tick s = .next s := by
  rw [runMove, if_neg h]

/-- Settles O7: `step_cons` and the move's own lemma, and `step_nil` for the empty schedule. -/
theorem stepOfEachAgent : Obligations.StepOfEachAgent := by
  unfold Obligations.StepOfEachAgent
  refine ⟨fun s rest h => ?_, fun s rest h hl hp hc => ?_, fun s rest h hoff => ?_, fun s w rest h hc => ?_,
    fun s w v rest h hc => ?_, fun s h => step_nil h⟩
  · exact step_cons h
  · rw [step_cons h]
    exact runMove_tick_enabled ((tickEnabled_iff { s with sched := rest }).2 ⟨hl, hp, hc⟩)
  · rw [step_cons h]
    refine runMove_tick_disabled fun he => ?_
    obtain ⟨hl, hp, hc⟩ := (tickEnabled_iff { s with sched := rest }).1 he
    rcases hoff with hl' | hp' | hc'
    · exact hl' hl
    · exact absurd (hp.symm.trans hp') (by decide)
    · exact hc' hc
  · rw [step_cons h]
    exact runMove_present_idle w hc
  · rw [step_cons h]
    exact runMove_present_busy w hc

end Sys2Proof.Machine
end

section
/-! PROOFS of the family spec/20_memory.md, second part: the commands that only read (R46). Each is a `fail` or a
`respond` decided by fields that neither of the two writes. -/

namespace Sys2Proof.Machine

/-- The command completes and writes only the response and, on a failure, `last_err`; at once again it gives the same
response (R46). -/
def ReadsOnly (i : Instr) (s : State) : Prop :=
  ∃ (t u : State) (e : ErrCode) (d : Data),
    exec i s = .next t ∧ exec i t = .next u ∧
    t = { s with lastErr := if e = .ok then s.lastErr else e, responses := s.responses ++ [respWord e d] } ∧
    u = { t with responses := t.responses ++ [respWord e d] }

/-- A command that fails in `s`, and still fails so in the state that failing leaves. -/
theorem readsOnly_of_fail {i : Instr} {s : State} {e : ErrCode} (he : e ≠ .ok) (h : exec i s = .next (s.fail e))
    (hagain : exec i (s.fail e) = .next ((s.fail e).fail e)) : ReadsOnly i s := by
  refine ⟨_, _, e, 0, h, hagain, ?_, rfl⟩
  rw [if_neg he]
  rfl

/-- A command that responds OK in `s`, and does so again in the state that responding leaves. -/
theorem readsOnly_of_respond {i : Instr} {s : State} {d : Data} (h : exec i s = .next (s.respond .ok d))
    (hagain : exec i (s.respond .ok d) = .next ((s.respond .ok d).respond .ok d)) : ReadsOnly i s :=
  ⟨_, _, .ok, d, h, hagain, rfl, rfl⟩

/-! ### The reading commands, one equation for each of their cases -/

theorem exec_regRead_none {reg : BitVec 8} (h : regOperand reg = none) (s : State) :
    exec (.regRead reg) s = .next (s.fail .invalidArgument) := by
  simp only [exec, execRegRead, h]

theorem exec_regRead_some {reg : BitVec 8} {r : Reg} (h : regOperand reg = some r) (s : State) :
    exec (.regRead reg) s = .next (s.respond .ok (readReg s r)) := by
  simp only [exec, execRegRead, h]

/-- No register holds the responses (spec/10_state.md R36). -/
@[simp] theorem readReg_respond (s : State) (e : ErrCode) (d : Data) (r : Reg) :
    readReg (s.respond e d) r = readReg s r := by cases r <;> rfl

theorem exec_wpRead_none {s : State} {ch : Chan} {idx : BitVec 8} (h : (s.wpAt ch)[indexOperand idx]? = none) :
    exec (.wpRead ch idx) s = .next (s.fail .indexOutOfRange) := by
  simp only [exec, execWpRead, h]

theorem exec_wpRead_some {s : State} {ch : Chan} {idx : BitVec 8} {w : Waypoint}
    (h : (s.wpAt ch)[indexOperand idx]? = some w) :
    exec (.wpRead ch idx) s = .next (s.respond .ok (waypointData w)) := by
  simp only [exec, execWpRead, h]

theorem exec_curveEval_none {s : State} {ch : Chan} {time : RawTime}
    (h : curve Config.params.numeric (s.wpAt ch) s.mode (timeOperand time) = none) :
    exec (.curveEval ch time) s = .next (s.fail .insufficientData) := by
  simp only [exec, execCurveEval, curveEvalOp, h]

theorem exec_curveEval_some {s : State} {ch : Chan} {time : RawTime} {v : ℚ}
    (h : curve Config.params.numeric (s.wpAt ch) s.mode (timeOperand time) = some v) :
    exec (.curveEval ch time) s = .next (s.respond .ok (curveData Config.params.sampleRound v)) := by
  simp only [exec, execCurveEval, curveEvalOp, h]

theorem exec_cacheRead_invalid {s : State} {ch : Chan} (k : BitVec 32) (h : s.validAt ch = false) :
    exec (.cacheRead ch k) s = .next (s.fail .insufficientData) := by
  rw [exec, execCacheRead, if_pos h]

theorem exec_cacheRead_past {s : State} {ch : Chan} {k : BitVec 32} (h : ¬ s.validAt ch = false)
    (hk : s.stepCount.toNat ≤ sampleIndexOperand k) :
    exec (.cacheRead ch k) s = .next (s.fail .indexOutOfRange) := by
  rw [exec, execCacheRead, if_neg h, if_pos hk]

theorem exec_cacheRead_sample {s : State} {ch : Chan} {k : BitVec 32} (h : ¬ s.validAt ch = false)
    (hk : ¬ s.stepCount.toNat ≤ sampleIndexOperand k) :
    exec (.cacheRead ch k) s = .next (s.respond .ok ((s.cacheAt ch (sampleIndexOperand k)).setWidth 56)) := by
  rw [exec, execCacheRead, if_neg h, if_neg hk]

/-! ### Reading twice: the deciding fields are those of the state before -/

theorem regRead_readsOnly (reg : BitVec 8) (s : State) : ReadsOnly (.regRead reg) s := by
  cases h : regOperand reg with
  | none => exact readsOnly_of_fail (by decide) (exec_regRead_none h s) (exec_regRead_none h _)
  | some r =>
    have hagain := exec_regRead_some h (s.respond .ok (readReg s r))
    rw [readReg_respond] at hagain
    exact readsOnly_of_respond (exec_regRead_some h s) hagain

theorem wpRead_readsOnly (ch : Chan) (idx : BitVec 8) (s : State) : ReadsOnly (.wpRead ch idx) s := by
  cases h : (s.wpAt ch)[indexOperand idx]? with
  | none => exact readsOnly_of_fail (by decide) (exec_wpRead_none h) (exec_wpRead_none h)
  | some w => exact readsOnly_of_respond (exec_wpRead_some h) (exec_wpRead_some h)

theorem curveEval_readsOnly (ch : Chan) (time : RawTime) (s : State) : ReadsOnly (.curveEval ch time) s := by
  cases h : curve Config.params.numeric (s.wpAt ch) s.mode (timeOperand time) with
  | none => exact readsOnly_of_fail (by decide) (exec_curveEval_none h) (exec_curveEval_none h)
  | some v => exact readsOnly_of_respond (exec_curveEval_some h) (exec_curveEval_some h)

theorem cacheRead_readsOnly (ch : Chan) (k : BitVec 32) (s : State) : ReadsOnly (.cacheRead ch k) s := by
  by_cases h : s.validAt ch = false
  · exact readsOnly_of_fail (by decide) (exec_cacheRead_invalid k h) (exec_cacheRead_invalid k h)
  by_cases hk : s.stepCount.toNat ≤ sampleIndexOperand k
  · exact readsOnly_of_fail (by decide) (exec_cacheRead_past h hk) (exec_cacheRead_past h hk)
  · exact readsOnly_of_respond (exec_cacheRead_sample h hk) (exec_cacheRead_sample h hk)

/-- Settles O45: the six commands one by one; NOP and WP_COUNT have a single case, an OK that no response changes. -/
theorem readingHasNoSideEffect : Obligations.ReadingHasNoSideEffect := by
  intro i s hi
  show ReadsOnly i s
  cases i with
  | nop => exact readsOnly_of_respond rfl rfl
  | regRead reg => exact regRead_readsOnly reg s
  | wpRead ch idx => exact wpRead_readsOnly ch idx s
  | wpCount ch => exact readsOnly_of_respond rfl rfl
  | cacheRead ch k => exact cacheRead_readsOnly ch k s
  | curveEval ch time => exact curveEval_readsOnly ch time s
  | evtEn | evtClear | crcClear | crcFeed | wpAdd | wpUpdate | wpRemove | setMode | setFreq | setPort | setBaud
  | connect | start | stop => simp [Instr.opcode] at hi

end Sys2Proof.Machine
end

section
/-! PROOFS of the family spec/20_memory.md, third part: the cache is a snapshot (R50, R54). For each command and each
autonomous step, that it leaves the snapshot, a START apart. -/

namespace Sys2Proof.Machine

/-- `t` holds the snapshot of `s`: the cache with its step count, its duration and its valid channels (R50). -/
abbrev SameSnapshot (s t : State) : Prop :=
  t.cache = s.cache ∧ t.stepCount = s.stepCount ∧ t.rmax = s.rmax ∧ t.curveValid = s.curveValid

theorem sameSnapshot_refl (s : State) : SameSnapshot s s := ⟨rfl, rfl, rfl, rfl⟩

/-- Of the edits none writes the snapshot: not a waypoint edit, not SET_MODE, not SET_FREQ (R54). -/
theorem edit_sameSnapshot {i : Instr} {s u : State} (he : Edit i s u) : SameSnapshot s u := by
  cases he <;> exact sameSnapshot_refl s

theorem connectOp_sameSnapshot (s : State) : SameSnapshot s (connectOp s) := by
  rcases connectOp_cases s with ⟨-, hx⟩ | ⟨-, hx⟩ | ⟨-, hx⟩ <;> rw [hx] <;> exact sameSnapshot_refl s

theorem stopOp_sameSnapshot (s : State) : SameSnapshot s (stopOp s) := by
  rcases stopOp_cases s with ⟨-, hx⟩ | ⟨-, hx⟩ <;> rw [hx] <;> exact sameSnapshot_refl s

/-- A command writes the snapshot only if it is a START. -/
theorem exec_sameSnapshot {i : Instr} {s t : State} (h : exec i s = .next t) : SameSnapshot s t ∨ i = .start := by
  rcases exec_cases h with ⟨e, -, rfl⟩ | ⟨u, d, he, rfl⟩ | ⟨-, rfl⟩ | ⟨hi, -⟩ | ⟨-, rfl⟩
  · exact .inl (sameSnapshot_refl s)
  · exact .inl (show SameSnapshot s u from edit_sameSnapshot he)
  · exact .inl (connectOp_sameSnapshot s)
  · exact .inr hi
  · exact .inl (stopOp_sameSnapshot s)

theorem performCommand_sameSnapshot {w : CmdWord} {s t : State} (h : performCommand w s = .next t) :
    SameSnapshot s t ∨ decode w = .ok .start := by
  rcases performCommand_cases h with ⟨-, -, rfl⟩ | ⟨i, hd, hx⟩
  · exact .inl (sameSnapshot_refl s)
  · exact (exec_sameSnapshot hx).imp_right fun hi : i = .start => hi ▸ hd

theorem strobe_sameSnapshot (s : State) : SameSnapshot s s.strobe := by
  rcases strobe_cases s with hx | ⟨-, -, hx⟩ | ⟨-, -, hx⟩ | ⟨-, hx⟩ <;> rw [hx] <;> exact sameSnapshot_refl s

theorem tick_sameSnapshot (s : State) : SameSnapshot s s.tick := by
  rcases tick_cases s with ⟨-, hx⟩ | ⟨-, w, w', -, hx⟩ | ⟨-, hx⟩ <;> rw [hx] <;> exact sameSnapshot_refl s

/-- Settles O48: by the agent that moves; taking the move leaves the snapshot. -/
theorem onlyStartRebuildsTheCache : Obligations.OnlyStartRebuildsTheCache := by
  intro s t hstep
  obtain ⟨_, ms, n, -, rfl, hcase⟩ := step_cases hstep
  rcases hcase with ⟨w, -, -, rfl⟩ | ⟨-, -, rfl⟩ | ⟨w, hm, hw, hx⟩ | ⟨-, rfl⟩ | ⟨-, -, -, -, rfl⟩ | ⟨-, rfl⟩ | ⟨hm, -⟩
  · exact .inl (sameSnapshot_refl s)
  · exact .inl (sameSnapshot_refl s)
  · obtain hk | hd := performCommand_sameSnapshot hx
    · exact .inl hk
    · exact .inr (.inr ⟨hm, w, hw, hd⟩)
  · exact .inl (strobe_sameSnapshot _)
  · exact .inl (tick_sameSnapshot _)
  · exact .inl (sameSnapshot_refl s)
  · exact .inr (.inl hm)

end Sys2Proof.Machine
end

section
/-! PROOFS of the family spec/20_memory.md, fourth part: the tick reads none of the fields that the host may edit while
streaming (R50; spec/45_scheduler.md R110). Every operation of the tick commutes with other values of them. -/

namespace Sys2Proof.Machine

/-- Values of the fields that commands write while the stream goes on from its snapshot. -/
structure LiveFields where
  wp : Vector (List Waypoint) 8
  mode : Mode
  freq : BitVec 16
  port : BitVec 32
  baud : BitVec 32
  cacheStale : Bool
  crc : Byte
  eventEn : BitVec 16

/-- The state with these values in its live fields. -/
def State.withLive (s : State) (v : LiveFields) : State :=
  { s with
    wp := v.wp, mode := v.mode, freq := v.freq, port := v.port, baud := v.baud
    cacheStale := v.cacheStale, crc := v.crc, eventEn := v.eventEn }

section WithLive

variable (s : State) (v : LiveFields)

@[simp] theorem withLive_tickValue : (s.withLive v).tickValue = s.tickValue := rfl

@[simp] theorem transportWrite_withLive (bytes : List Byte) : (s.withLive v).transportWrite bytes =
    ((s.transportWrite bytes).1, (s.transportWrite bytes).2.withLive v) := rfl

@[simp] theorem stopSequence_withLive :
    (s.withLive v).stopSequence = (s.stopSequence.1, s.stopSequence.2.withLive v) := rfl

@[simp] theorem forcedStop_withLive (e : ErrCode) : (s.withLive v).forcedStop e = (s.forcedStop e).withLive v := rfl

theorem tickFrame_withLive : (s.withLive v).tickFrame = s.tickFrame.withLive v := by
  simp only [State.tickFrame, withLive_tickValue, transportWrite_withLive]
  split
  · rfl
  · exact forcedStop_withLive ..

theorem tickEnd_withLive : (s.withLive v).tickEnd = s.tickEnd.withLive v := by
  simp only [State.tickEnd, stopSequence_withLive]
  split <;> rfl

theorem tick_withLive : (s.withLive v).tick = s.tick.withLive v := by
  by_cases hc : s.cursor ≤ s.stepCount
  · rw [State.tick, State.tick, if_pos hc]
    exact (if_pos hc).trans (tickFrame_withLive { s with tickPending := false } v)
  · rw [State.tick, State.tick, if_neg hc]
    exact (if_neg hc).trans (tickEnd_withLive { s with tickPending := false } v)

end WithLive

/-- Settles O55: `tick_withLive` at the eight values. -/
theorem tickIgnoresLiveEdits : Obligations.TickIgnoresLiveEdits :=
  fun s wp m f p b st c en => tick_withLive s ⟨wp, m, f, p, b, st, c, en⟩

end Sys2Proof.Machine
end

section
/-! PROOFS of the family spec/30_encoding.md, first part: decoding and encoding are inverse to each other (R56, R59, R60),
and both are the row match of R60. -/

namespace Sys2Proof

/-- A row's decoder mask, field by field: all of `OP` and the unused fields (R60). -/
theorem rowMask_eq (o : Opcode) :
    o.rowMask = commandWord 0x1F o.fieldMask.ch o.fieldMask.idx o.fieldMask.a16 o.fieldMask.a32 := by
  cases o <;> decide

/-- A row's match value, field by field (R59). -/
theorem rowMatch_eq (o : Opcode) : o.rowMatch = commandWord o.code 0 0 0 0 := by
  cases o <;> decide

theorem code_inj {o o' : Opcode} (h : o.code = o'.code) : o = o' :=
  Option.some.inj ((ofBits_code o).symm.trans (h ▸ ofBits_code o'))

/-- A word matches a row exactly when it has the row's opcode and passes its must-be-zero test (R60). -/
theorem matches_row_iff (w : CmdWord) (o : Opcode) :
    w &&& o.rowMask = o.rowMatch ↔ (Fields.ofWord w).op = o.code ∧ w &&& o.mbz = 0 := by
  obtain ⟨op, ch, idx, a16, a32, rfl⟩ := exists_commandWord w
  have hop : (Fields.ofWord (commandWord op ch idx a16 a32)).op = op :=
    congrArg Fields.op (ofWord_toWord ⟨op, ch, idx, a16, a32⟩)
  have hall : op &&& 0x1F = op := BitVec.and_allOnes
  rw [hop, mbz_test, rowMask_eq, rowMatch_eq, commandWord_and, commandWord_inj, hall]

/-- Decoding in terms of the row match: `w` decodes to `i` exactly when it matches `i`'s row and that row reads `i` from
it (R60, R61). -/
theorem decode_ok_iff (w : CmdWord) (i : Instr) :
    decode w = .ok i ↔
      w &&& i.opcode.rowMask = i.opcode.rowMatch ∧ i.opcode.build (Fields.ofWord w) = i := by
  rw [matches_row_iff]
  constructor
  · intro h
    unfold decode at h
    cases ho : Opcode.ofBits (Fields.ofWord w).op with
    | none =>
      rw [ho] at h
      cases h
    | some o =>
      rw [ho] at h
      by_cases hm : w &&& o.mbz = 0
      · have hb : o.build (Fields.ofWord w) = i := Except.ok.inj ((if_pos hm).symm.trans h)
        have hio : i.opcode = o := hb ▸ build_opcode o _
        rw [hio]
        exact ⟨⟨(code_of_ofBits ho).symm, hm⟩, hb⟩
      · exact absurd ((if_neg hm).symm.trans h) (by simp)
  · rintro ⟨⟨hop, hm⟩, hb⟩
    simp only [decode, hop, ofBits_code, if_pos hm, hb]

open Laws.EncodeMatches in
/-- The word of every command matches its row (R59, R60). -/
theorem encode_matches_row : ∀ i : Instr, encode i &&& i.opcode.rowMask = i.opcode.rowMatch
  | .nop => nop
  | .regRead reg => regRead reg
  | .evtEn mask => evtEn mask
  | .evtClear mask => evtClear mask
  | .crcClear => crcClear
  | .crcFeed byte => crcFeed byte
  | .wpAdd ch time pwm => wpAdd ch time pwm
  | .wpUpdate ch idx time pwm => wpUpdate ch idx time pwm
  | .wpRemove ch idx => wpRemove ch idx
  | .wpRead ch idx => wpRead ch idx
  | .wpCount ch => wpCount ch
  | .setMode mode => setMode mode
  | .curveEval ch time => curveEval ch time
  | .cacheRead ch k => cacheRead ch k
  | .setFreq freq => setFreq freq
  | .setPort port => setPort port
  | .setBaud baud => setBaud baud
  | .connect => connect
  | .start => start
  | .stop => stop

/-- A row reads a command's operands back from the command's fields (R60). -/
theorem build_fields (i : Instr) : i.opcode.build i.fields = i := by
  cases i <;> simp [Instr.opcode, Opcode.build, Instr.fields]

/-- Settles O1: the word matches the command's row, and the row reads the operands back from the word's fields. -/
theorem decodeOfEncode : Obligations.DecodeOfEncode := by
  intro i
  have hfields : Fields.ofWord (encode i) = i.fields := ofWord_toWord i.fields
  rw [decode_ok_iff, hfields]
  exact ⟨encode_matches_row i, build_fields i⟩

/-- The command a row reads from fields with the row's opcode and zero in the unused ones has these fields (R60). -/
theorem fields_build {o : Opcode} {f : Fields} (hop : f.op = o.code)
    (hm : f.ch &&& o.fieldMask.ch = 0 ∧ f.idx &&& o.fieldMask.idx = 0 ∧ f.a16 &&& o.fieldMask.a16 = 0 ∧
      f.a32 &&& o.fieldMask.a32 = 0) : (o.build f).fields = f := by
  obtain ⟨op, ch, idx, a16, a32⟩ := f
  cases o <;> simp_all [Opcode.build, Instr.fields, Instr.opcode, Opcode.fieldMask]

/-- Settles O2: the matched row's command has the word's own fields, so its word is the word they were read from. -/
theorem encodeOfDecode : Obligations.EncodeOfDecode := by
  intro w i h
  obtain ⟨hrow, hb⟩ := (decode_ok_iff w i).1 h
  obtain ⟨hop, hm⟩ := (matches_row_iff w i.opcode).1 hrow
  have hmask := (mbz_test i.opcode _ _ _ _ _).1 ((congrArg (· &&& i.opcode.mbz) (toWord_ofWord w)).trans hm)
  have hfields : i.fields = Fields.ofWord w := by
    rw [← fields_build hop hmask, hb]
  rw [encode, hfields, toWord_ofWord]

/-- Settles O3: matching two rows would give one word two opcodes; and a word that matches a row decodes. -/
theorem decodeSelectsOneRow : Obligations.DecodeSelectsOneRow := by
  intro w
  constructor
  · intro i h o
    have hi := ((decode_ok_iff w i).1 h).1
    constructor
    · intro ho
      exact code_inj (((matches_row_iff w o).1 ho).1.symm.trans ((matches_row_iff w i.opcode).1 hi).1)
    · rintro rfl
      exact hi
  · intro e h o ho
    have hok : decode w = .ok (o.build (Fields.ofWord w)) := by
      rw [decode_ok_iff, build_opcode]
      exact ⟨ho, rfl⟩
    rw [h] at hok
    cases hok

end Sys2Proof
end

section
/-! PROOFS of the family spec/30_encoding.md, second part: the block's command step (R61) and the one response of every
command (R62). -/

namespace Sys2Proof.Machine

/-- The command move with a word waiting performs it, the port emptied. -/
theorem runMove_command {s : State} {w : CmdWord} (h : s.cmd = some w) :
    runMove .command s = performCommand w { s with cmd := none } := by
  simp only [runMove, h]

theorem performCommand_ok {w : CmdWord} {i : Instr} (h : decode w = .ok i) (s : State) :
    performCommand w s = exec i s := by
  simp only [performCommand, h]

theorem performCommand_error {w : CmdWord} {e : DecodeError} (h : decode w = .error e) (s : State) :
    performCommand w s = .next (s.fail .illegalCommand) := by
  simp only [performCommand, h]

/-- The step whose move is the command with a word waiting (R61). -/
theorem step_command {s : State} {w : CmdWord} {rest : List Move} (hs : s.sched = .command :: rest)
    (hc : s.cmd = some w) : step s = performCommand w { s with sched := rest, cmd := none } := by
  rw [step_cons hs]
  exact runMove_command hc

/-- Settles O5: the step performs the waiting word, which is `exec` of what it decodes to. -/
theorem stepRunsDecodedCommand : Obligations.StepRunsDecodedCommand := by
  intro s w i rest hs hc hd
  rw [step_command hs hc, performCommand_ok hd]

/-- Settles O6: the failure's response word is 0x08 with data 0. -/
theorem illegalWordOnlySetsLastErr : Obligations.IllegalWordOnlySetsLastErr := by
  intro s w e rest hs hc hd
  have hword : respWord .illegalCommand 0 = 0x0800000000000000 := by decide
  rw [step_command hs hc, performCommand_error hd, ← hword]
  rfl

/-! ### One response (R62) -/

/-- From `s` to `t` exactly one response is sent: an error with data 0, written to `last_err`, or OK, which leaves
`last_err`; and never WrongChannelCount (R62, R32, R117). -/
def SendsOneResponse (s t : State) : Prop :=
  ∃ (e : ErrCode) (d : Data), t.responses = s.responses ++ [respWord e d] ∧
    (e ≠ .ok → d = 0 ∧ t.lastErr = e) ∧ (e = .ok → t.lastErr = s.lastErr) ∧ e ≠ .wrongChannelCount

theorem sendsOneResponse_of_ok {s t : State} {d : Data} (hr : t.responses = s.responses ++ [respWord .ok d])
    (hl : t.lastErr = s.lastErr) : SendsOneResponse s t :=
  ⟨.ok, d, hr, fun h => absurd rfl h, fun _ => hl, by decide⟩

theorem sendsOneResponse_of_error {s t : State} {e : ErrCode} (he : e ≠ .ok) (hw : e ≠ .wrongChannelCount)
    (hr : t.responses = s.responses ++ [respWord e 0]) (hl : t.lastErr = e) : SendsOneResponse s t :=
  ⟨e, 0, hr, fun _ => ⟨rfl, hl⟩, fun h => absurd h he, hw⟩

theorem fail_sendsOneResponse (s : State) {e : ErrCode} (he : PreciseCode e) : SendsOneResponse s (s.fail e) :=
  sendsOneResponse_of_error he.1 he.2.1 rfl rfl

/-- No edit of a command sends a response or writes `last_err` by itself. -/
theorem edit_responses {i : Instr} {s u : State} (he : Edit i s u) :
    u.responses = s.responses ∧ u.lastErr = s.lastErr := by
  cases he <;> exact ⟨rfl, rfl⟩

/-- Only a successful write has no error code (spec/45_scheduler.md R100). -/
theorem WriteOutcome.errCode_ne_ok {w : WriteOutcome} (h : w ≠ .ok) : w.errCode ≠ .ok := by
  cases w with
  | ok => exact absurd rfl h
  | notOpen => decide
  | failed n => simp [WriteOutcome.errCode]

theorem connectOp_sendsOneResponse (s : State) : SendsOneResponse s (connectOp s) := by
  rcases connectOp_cases s with ⟨-, hx⟩ | ⟨-, hx⟩ | ⟨-, hx⟩
  · rw [hx]; exact fail_sendsOneResponse s (by decide)
  · rw [hx]; exact sendsOneResponse_of_error (by decide) (by decide) rfl rfl
  · rw [hx]; exact sendsOneResponse_of_ok rfl rfl

/-- STOP reports the write's code (spec/45_scheduler.md R108). -/
theorem stopOp_sendsOneResponse (s : State) : SendsOneResponse s (stopOp s) := by
  rcases stopOp_cases s with ⟨-, hx⟩ | ⟨-, hx⟩
  · rw [hx]; exact sendsOneResponse_of_ok rfl rfl
  · rw [hx]
    by_cases hw : s.nextWrite = .ok
    · rw [hw]; exact sendsOneResponse_of_ok rfl rfl
    · exact sendsOneResponse_of_error (WriteOutcome.errCode_ne_ok hw) s.nextWrite.errCode_ne_wrongChannelCount rfl
        (if_neg hw)

theorem beginStream_sendsOneResponse (p : Params) (s : State) : SendsOneResponse s (beginStream p s) := by
  have hr : (rebuild p s).responses = s.responses := by rw [rebuild_eq]
  have hl : (rebuild p s).lastErr = s.lastErr := by rw [rebuild_eq]
  rcases beginStream_cases p s with hx | ⟨w, w', hw, hx⟩
  · rw [hx]; exact sendsOneResponse_of_ok (congrArg (· ++ _) hr) hl
  · rw [hx]
    exact sendsOneResponse_of_error (WriteOutcome.errCode_ne_ok hw) w.errCode_ne_wrongChannelCount
      (congrArg (· ++ _) hr) rfl

theorem startOp_sendsOneResponse (p : Params) (s : State) : SendsOneResponse s (startOp p s) := by
  rcases startOp_cases p s with ⟨e, he, hx⟩ | ⟨-, hx⟩ | ⟨u, -, hx, ⟨-, rfl⟩ | ⟨-, rfl⟩⟩
  · rw [hx]; exact fail_sendsOneResponse s he
  · rw [hx]; exact sendsOneResponse_of_error (by decide) (by decide) rfl rfl
  · rw [hx]; exact beginStream_sendsOneResponse p u
  · rw [hx]
    exact beginStream_sendsOneResponse p
      { s.dropOpen with link := .openIdle, history := s.history ++ [.opened s.port s.baud .ok] }

theorem exec_sendsOneResponse {i : Instr} {s t : State} (h : exec i s = .next t) : SendsOneResponse s t := by
  rcases exec_cases h with ⟨e, he, rfl⟩ | ⟨u, d, he, rfl⟩ | ⟨-, rfl⟩ | ⟨-, rfl⟩ | ⟨-, rfl⟩
  · exact fail_sendsOneResponse s he
  · obtain ⟨hr, hl⟩ := edit_responses he
    exact sendsOneResponse_of_ok (congrArg (· ++ _) hr) hl
  · exact connectOp_sendsOneResponse s
  · exact startOp_sendsOneResponse Config.params s
  · exact stopOp_sendsOneResponse s

theorem performCommand_sendsOneResponse {w : CmdWord} {s t : State} (h : performCommand w s = .next t) :
    SendsOneResponse s t := by
  rcases performCommand_cases h with ⟨-, -, rfl⟩ | ⟨i, -, hx⟩
  · exact fail_sendsOneResponse s (by decide)
  · exact exec_sendsOneResponse hx

/-- The response word of a sent response has data 0 when its `ERR` field is not (R62). -/
theorem respData_eq_zero_of_respErr {e : ErrCode} {d : Data} (hd : e ≠ .ok → d = 0)
    (h : respErr (respWord e d) ≠ 0) : respData (respWord e d) = 0 := by
  have he : e ≠ .ok := by
    rintro rfl
    exact h (respErr_respWord .ok d)
  exact (respData_respWord e d).trans (hd he)

/-- Settles O42: `exec_sendsOneResponse` and `performCommand_sendsOneResponse` on the next state that there always is. -/
theorem everyCommandSendsOneResponse : Obligations.EveryCommandSendsOneResponse := by
  unfold Obligations.EveryCommandSendsOneResponse
  constructor
  · intro i s
    obtain ⟨t, ht⟩ := exec_total i s
    obtain ⟨e, d, hsent⟩ := exec_sendsOneResponse ht
    exact ⟨t, e, d, ht, hsent⟩
  · intro w s
    obtain ⟨t, ht⟩ := performCommand_total w s
    obtain ⟨e, d, hr, herr, -, -⟩ := performCommand_sendsOneResponse ht
    exact ⟨t, respWord e d, ht, hr, respData_eq_zero_of_respErr fun he => (herr he).1⟩

end Sys2Proof.Machine
end

section
/-! PROOFS of the family spec/30_encoding.md, third part: the assembler's lines (R65) and the CRC sequence (R66). -/

namespace Sys2Proof.Machine

/-- Settles O59: ten closed lines, evaluated by the kernel, since `decide` alone is stuck on the rational operands. -/
theorem assembledLines : Obligations.AssembledLines := by
  unfold Obligations.AssembledLines
  decide +kernel

/-- CRC_FEED of a byte (spec/40_crc.md R70). -/
theorem exec_crcFeed_byte (b : Byte) (s : State) : exec (.crcFeed (b.setWidth 16)) s =
    .next ({ s with crc := crc8Step s.crc b }.respond .ok ((crc8Step s.crc b).setWidth 56)) := by
  simp only [exec, execCrcFeed, byteOperand_setWidth]

/-- CRC_FEED of each byte folds `crc8_step` over them; nothing else changes but the responses, one for each byte (R70). -/
theorem execAll_crcFeeds (bs : List Byte) (s : State) :
    ∃ rs, execAll (bs.map fun b => .crcFeed (b.setWidth 16)) s =
      .next { s with crc := bs.foldl crc8Step s.crc, responses := s.responses ++ rs } ∧ rs.length = bs.length := by
  induction bs generalizing s with
  | nil => exact ⟨[], by simp [execAll], rfl⟩
  | cons b bs ih =>
    obtain ⟨rs, hx, hlen⟩ :=
      ih ({ s with crc := crc8Step s.crc b }.respond .ok ((crc8Step s.crc b).setWidth 56))
    refine ⟨respWord .ok ((crc8Step s.crc b).setWidth 56) :: rs, ?_, congrArg (· + 1) hlen⟩
    rw [List.map_cons, execAll_cons _ (exec_crcFeed_byte b s), hx]
    simp [State.respond]

/-- CRC_SEQ leaves `crc8` of the bytes in the register (R66, spec/40_crc.md R70). -/
theorem execAll_crcSeq (bs : List Byte) (s : State) :
    ∃ rs, execAll (crcSeq bs) s = .next { s with crc := crc8 bs, responses := s.responses ++ rs } ∧
      rs.length = bs.length + 1 := by
  obtain ⟨rs, hx, hlen⟩ := execAll_crcFeeds bs ({ s with crc := Config.crcInit }.respond .ok 0)
  have hclear : exec .crcClear s = .next ({ s with crc := Config.crcInit }.respond .ok 0) := rfl
  refine ⟨respWord .ok 0 :: rs, ?_, congrArg (· + 1) hlen⟩
  rw [crcSeq, execAll_cons _ hclear, hx]
  simp [State.respond, crc8]

/-- Settles O18: the sequence, and then the register read, which responds with what the sequence left. -/
theorem crcSequenceReturnsCrc8 : Obligations.CrcSequenceReturnsCrc8 := by
  intro bs s
  obtain ⟨rs, hx, hlen⟩ := execAll_crcSeq bs s
  refine ⟨rs, ?_, hlen⟩
  rw [execAll_append _ hx, execAll_cons _ (exec_regRead_some (r := .crc) rfl _)]
  rfl

end Sys2Proof.Machine
end

section
/-! PROOFS of the family spec/30_encoding.md, fourth part: the host sequences save and load (R66). Save is a list of reads,
each of which only responds; clear and add each write one channel, and a channel's sequence leaves the others. -/

namespace Sys2Proof.Machine

/-! ### Save -/

/-- Whatever has been responded, the command responds `r` and changes nothing else. -/
def RespondsOnly (s : State) (i : Instr) (r : RespWord) : Prop :=
  ∀ rs, exec i { s with responses := rs } = .next { s with responses := rs ++ [r] }

/-- Commands that only respond, one after another. -/
theorem execAll_of_respondsOnly {s : State} {is : List Instr} {rs : List RespWord}
    (h : List.Forall₂ (RespondsOnly s) is rs) (before : List RespWord) :
    execAll is { s with responses := before } = .next { s with responses := before ++ rs } := by
  induction h generalizing before with
  | nil => simp [execAll]
  | cons hi _ ih =>
    rw [execAll_cons _ (hi before), ih]
    simp

/-- WP_READ of each index of a channel of at most 256 waypoints, in order (spec/41_waypoint.md R77). -/
theorem wpReads_respondsOnly (s : State) (ch : Chan) (h : (s.wpAt ch).length ≤ 256) :
    List.Forall₂ (RespondsOnly s) ((List.range (s.wpAt ch).length).map fun k => .wpRead ch (BitVec.ofNat 8 k))
      ((s.wpAt ch).map fun w => respWord .ok (waypointData w)) := by
  rw [List.forall₂_iff_get]
  refine ⟨by simp, fun k hk _ => ?_⟩
  rw [List.length_map, List.length_range] at hk
  have hidx : indexOperand (BitVec.ofNat 8 k) = k := Nat.mod_eq_of_lt (by omega)
  simp only [List.get_eq_getElem, List.getElem_map, List.getElem_range]
  intro rs
  refine exec_wpRead_some (s := { s with responses := rs }) ?_
  rw [hidx]
  exact List.getElem?_eq_getElem hk

/-- What `save` reads of a channel: its count and its waypoints. -/
theorem saveChannel_respondsOnly (s : State) (ch : Chan) (h : (s.wpAt ch).length ≤ 256) :
    List.Forall₂ (RespondsOnly s)
      (.wpCount ch :: (List.range (s.wpAt ch).length).map fun k => .wpRead ch (BitVec.ofNat 8 k))
      (respWord .ok (indexData (s.wpAt ch).length) :: (s.wpAt ch).map fun w => respWord .ok (waypointData w)) :=
  .cons (fun _ => rfl) (wpReads_respondsOnly s ch h)

/-- `save` responds with the mode, the frequency and every channel's count and waypoints, and changes nothing else. -/
theorem saveProgram_respondsOnly {s : State} {counts : Vector Nat 8} (hw : WpWf s)
    (hc : ∀ ch : Chan, counts[ch] = (s.wpAt ch).length) :
    List.Forall₂ (RespondsOnly s) (saveProgram counts)
      ([respWord .ok (s.mode.code.setWidth 56), respWord .ok (s.freq.setWidth 56)] ++
        allChans.flatMap fun ch => respWord .ok (indexData (s.wpAt ch).length) ::
          (s.wpAt ch).map fun w => respWord .ok (waypointData w)) := by
  simp only [saveProgram, hc]
  refine .cons (fun _ => rfl) (.cons (fun _ => rfl) ?_)
  refine List.rel_flatMap (R := Eq) (List.forall₂_eq_eq_eq ▸ rfl) ?_
  rintro ch _ rfl
  exact saveChannel_respondsOnly s ch (hw ch).2

/-! ### Load -/

/-- The commands turn the sequence `l` of the channel into `l'`; nothing else changes but the staleness and the
responses. -/
def EditsChannel (is : List Instr) (ch : Chan) (l l' : List Waypoint) : Prop :=
  ∀ s : State, s.wpAt ch = l → ∃ b rs, execAll is s =
    .next { s with wp := s.wp.set ch.val l' ch.isLt, cacheStale := b, responses := rs }

/-- One sequence for each of some channels: every channel's waypoints are edited as its own sequence does. -/
theorem execAll_channels {P : Chan → List Instr} {old new : Chan → List Waypoint}
    (hP : ∀ ch, EditsChannel (P ch) ch (old ch) (new ch)) {chs : List Chan} (hnd : chs.Nodup) {s : State}
    (hs : ∀ ch ∈ chs, s.wpAt ch = old ch) :
    ∃ wp b rs, execAll (chs.flatMap P) s = .next { s with wp := wp, cacheStale := b, responses := rs } ∧
      ∀ ch : Chan, wp[ch] = if ch ∈ chs then new ch else s.wpAt ch := by
  induction chs generalizing s with
  | nil => exact ⟨s.wp, s.cacheStale, s.responses, rfl, fun ch => by simp [State.wpAt]⟩
  | cons c chs ih =>
    obtain ⟨hc, hnd⟩ := List.nodup_cons.1 hnd
    obtain ⟨b, rs, hx⟩ := hP c s (hs c List.mem_cons_self)
    have hwp : ∀ ch : Chan, (s.wp.set c.val (new c) c.isLt)[ch] = if c = ch then new c else s.wpAt ch :=
      fun ch => wpAt_setWp s c ch (new c)
    obtain ⟨wp, b', rs', hy, hnew⟩ := ih (s := { s with
        wp := s.wp.set c.val (new c) c.isLt, cacheStale := b, responses := rs }) hnd fun ch hch => by
      have hne : c ≠ ch := fun h => hc (h ▸ hch)
      exact (hwp ch).trans ((if_neg hne).trans (hs ch (List.mem_cons_of_mem c hch)))
    refine ⟨wp, b', rs', ?_, fun ch => ?_⟩
    · rw [List.flatMap_cons, execAll_append _ hx, hy]
    · rw [hnew ch]
      by_cases hmem : ch ∈ chs
      · rw [if_pos hmem, if_pos (List.mem_cons_of_mem c hmem)]
      · rw [if_neg hmem]
        refine (hwp ch).trans ?_
        by_cases hcc : c = ch
        · subst hcc
          rw [if_pos rfl, if_pos List.mem_cons_self]
        · rw [if_neg hcc, if_neg (by simp [hmem, Ne.symm hcc])]

/-- One sequence for each channel: the waypoint memory becomes what the sequences leave. -/
theorem execAll_allChans {P : Chan → List Instr} {old new : Chan → List Waypoint}
    (hP : ∀ ch, EditsChannel (P ch) ch (old ch) (new ch)) {s : State} (hs : ∀ ch : Chan, s.wpAt ch = old ch)
    {wp : Vector (List Waypoint) 8} (hwp : ∀ ch : Chan, wp[ch] = new ch) :
    ∃ b rs, execAll (allChans.flatMap P) s = .next { s with wp := wp, cacheStale := b, responses := rs } := by
  obtain ⟨wp', b, rs, hx, hnew⟩ := execAll_channels hP (chs := allChans) (by decide) fun ch _ => hs ch
  have hall : ∀ ch : Chan, ch ∈ allChans := by decide
  have heq : wp' = wp := Vector.ext fun k hk =>
    (hnew ⟨k, hk⟩).trans ((if_pos (hall ⟨k, hk⟩)).trans (hwp ⟨k, hk⟩).symm)
  exact ⟨b, rs, heq ▸ hx⟩

/-- A later waypoint goes to the end of the sequence (spec/41_waypoint.md R72). -/
theorem wpInsert_later {l : List Waypoint} {w : Waypoint} (h : ∀ u ∈ l, u.time < w.time) :
    findTime l w.time = none ∧ wpInsert l w = (l ++ [w], l.length) := by
  have hfind : findTime l w.time = none := findTime_none.2 fun u hu => by
    have := h u hu
    bv_omega
  have hcount : countBefore l w.time = l.length :=
    List.countP_eq_length.2 fun u hu => decide_eq_true (h u hu)
  refine ⟨hfind, ?_⟩
  simp only [wpInsert, hfind, hcount, List.take_length, List.drop_length]

/-- WP_ADD of a waypoint later than all of a channel that is not full (spec/41_waypoint.md R74). -/
theorem exec_wpAdd_later {s : State} {ch : Chan} {w : Waypoint} (h : ∀ u ∈ s.wpAt ch, u.time < w.time)
    (hlen : (s.wpAt ch).length < 256) : exec (.wpAdd ch w.time w.pwm) s =
      .next ((s.setWp ch (s.wpAt ch ++ [w])).respond .ok (indexData (s.wpAt ch).length)) := by
  obtain ⟨hfind, hins⟩ := wpInsert_later h
  have hroom : ¬ (findTime (s.wpAt ch) w.time = none ∧ Config.params.wpDepth ≤ (s.wpAt ch).length) :=
    fun hf => Nat.not_le_of_lt hlen hf.2
  show execWpAdd ch w.time w.pwm s = _
  simp only [execWpAdd, waypointOperand_eq, wpAddOp, if_neg hroom, hins]

/-- WP_ADD of a rising sequence after the waypoints already there, each of them later. -/
theorem wpAdds_editsChannel (ch : Chan) (l old : List Waypoint)
    (h : (old ++ l).Pairwise fun a b => a.time < b.time) (hlen : (old ++ l).length ≤ 256) :
    EditsChannel (l.map fun w => .wpAdd ch w.time w.pwm) ch old (old ++ l) := by
  induction l generalizing old with
  | nil =>
    rintro s rfl
    exact ⟨s.cacheStale, s.responses, by simp [execAll, State.wpAt]⟩
  | cons w l ih =>
    rintro s rfl
    have hlater : ∀ u ∈ s.wpAt ch, u.time < w.time := fun u hu =>
      (List.pairwise_append.1 h).2.2 u hu w List.mem_cons_self
    have hroom : (s.wpAt ch).length < 256 := by
      rw [List.length_append, List.length_cons] at hlen
      omega
    rw [List.append_cons] at h hlen ⊢
    have hadd := exec_wpAdd_later hlater hroom
    generalize hu : (s.setWp ch (s.wpAt ch ++ [w])).respond .ok (indexData (s.wpAt ch).length) = u at hadd
    have huw : u.wpAt ch = s.wpAt ch ++ [w] := hu ▸ wpAt_setWp_same s ch _
    obtain ⟨b, rs, hx⟩ := ih _ h hlen u huw
    refine ⟨b, rs, ?_⟩
    rw [List.map_cons, execAll_cons _ hadd, hx, ← hu]
    simp [State.setWp, State.markStale, State.respond]

/-- Clearing a channel empties it, however it is polled (R66). -/
theorem clearChannel_editsChannel (ch : Chan) {runs : List Nat} {l : List Waypoint} (h : runs.sum = l.length) :
    EditsChannel (clearChannel ch runs) ch l [] := by
  rintro s rfl
  obtain ⟨b, rs, hx, -⟩ := execAll_clearChannel ch runs h.le
  rw [h, List.drop_length] at hx
  exact ⟨b, _, hx⟩

/-- SET_MODE of a mode's own code (spec/42_interpolator.md R86). -/
theorem exec_setMode_code (m : Mode) (s : State) :
    exec (.setMode (m.code.setWidth 16)) s = .next (({ s with mode := m } : State).markStale.respond .ok 0) := by
  cases m <;> rfl

/-- SET_FREQ of a legal frequency (spec/45_scheduler.md R103). -/
theorem exec_setFreq_ne_zero {f : BitVec 16} (h : f ≠ 0) (s : State) : exec (.setFreq f) s = .next
    (({ s with freq := f, tickCtr := if s.link = LinkState.openStreaming then 0 else s.tickCtr } : State).markStale.respond
      .ok 0) := by
  have hf : freqOperand f = some f := if_neg h
  simp only [exec, execSetFreq, hf]

/-- The two settings of `load` (R66). -/
theorem execAll_settings (m : Mode) {f : BitVec 16} (h : f ≠ 0) (s : State) : ∃ c rs,
    execAll [.setMode (m.code.setWidth 16), .setFreq f] s =
      .next { s with mode := m, freq := f, tickCtr := c, cacheStale := true, responses := rs } := by
  rw [execAll_cons _ (exec_setMode_code m s), execAll_cons _ (exec_setFreq_ne_zero h _)]
  exact ⟨_, _, rfl⟩

/-- `load` leaves the snapshot's waypoints, mode and frequency; the tick counter may have been restarted (R103), and
nothing else changes but the staleness and the responses. -/
theorem execAll_loadProgram {s : State} {snap : Snapshot} {runs : Vector (List Nat) 8}
    (hruns : ∀ ch : Chan, runs[ch].sum = (s.wpAt ch).length) (hf : snap.freq ≠ 0)
    (hwp : ∀ ch : Chan, snap.wp[ch].Pairwise (fun a b => a.time < b.time) ∧ snap.wp[ch].length ≤ 256) :
    ∃ c b rs, execAll (loadProgram runs snap) s = .next { s with
      wp := snap.wp, mode := snap.mode, freq := snap.freq, tickCtr := c, cacheStale := b, responses := rs } := by
  have hempty : ∀ ch : Chan, (Vector.replicate 8 ([] : List Waypoint))[ch] = [] :=
    fun ch => Vector.getElem_replicate ch.isLt
  obtain ⟨b₁, rs₁, hclear⟩ :=
    execAll_allChans (fun ch => clearChannel_editsChannel ch (hruns ch)) (fun _ => rfl) hempty
  obtain ⟨c, rs₂, hset⟩ := execAll_settings snap.mode hf
    { s with wp := Vector.replicate 8 [], cacheStale := b₁, responses := rs₁ }
  obtain ⟨b₃, rs₃, hadd⟩ := execAll_allChans (s := { s with
      wp := Vector.replicate 8 [], mode := snap.mode, freq := snap.freq, tickCtr := c, cacheStale := true
      responses := rs₂ })
    (fun ch => wpAdds_editsChannel ch snap.wp[ch] [] (hwp ch).1 (hwp ch).2) hempty fun _ => rfl
  refine ⟨c, b₃, rs₃, ?_⟩
  rw [loadProgram, List.append_assoc, execAll_append _ hclear, execAll_append _ hset, hadd]

/-- Settles O60: save is a list of reads, clearing is `execAll_clearChannel` with every waypoint dropped, and load is
`execAll_loadProgram`. -/
theorem saveAndLoadASnapshot : Obligations.SaveAndLoadASnapshot := by
  unfold Obligations.SaveAndLoadASnapshot
  refine ⟨fun s counts hw hc => ?_, fun s ch runs hne hsum => ?_, fun s snap runs hruns hf hwp => ?_⟩
  · exact execAll_of_respondsOnly (saveProgram_respondsOnly hw hc) s.responses
  · obtain ⟨b, rs, hx, hlast⟩ := execAll_clearChannel ch runs hsum.le
    obtain ⟨rs', rfl⟩ := hlast hne
    rw [hsum, List.drop_length] at hx
    refine ⟨_, rs', hx, wpAt_setWp_same s ch [], fun ch' hne' => wpAt_setWp_other s [] (Ne.symm hne'), rfl, ?_⟩
    simp [indexData]
  · obtain ⟨c, b, rs, hx⟩ := execAll_loadProgram (fun ch => (hruns ch).2) hf hwp
    exact ⟨_, hx, rfl, rfl, rfl, rfl, rfl, rfl⟩

end Sys2Proof.Machine
end

section
/-! PROOFS of the family spec/40_crc.md. The byte step is eight iterations of `crcShift` from the register XOR the byte
(R67), and `crcShift` can be undone: its result's lowest bit tells whether the polynomial was added. -/

namespace Sys2Proof.Machine

/-! ### The CRC function -/

/-- The eight iterations of R67. -/
theorem crc8Step_eq_iterate (r b : Byte) : crc8Step r b = crcShift^[8] (r ^^^ b) := rfl

/-- An iteration as R67 writes it, with the top bit by its number and the mask to 8 bits. -/
theorem crcShift_eq_masked (x : Byte) :
    crcShift x = if x.getLsbD 7 then ((x <<< 1) ^^^ 0x07) &&& 0xFF else (x <<< 1) &&& 0xFF := by
  have hmsb : x.msb = x.getLsbD 7 := BitVec.msb_eq_getLsbD_last x
  simp [crcShift, hmsb, Config.crcPoly]

/-- Settles O15: the loop repeats one function, which is `crcShift`; the two values are evaluated. -/
theorem crcStepIsTheSourcesLoop : Obligations.CrcStepIsTheSourcesLoop := by
  unfold Obligations.CrcStepIsTheSourcesLoop
  refine ⟨fun r b => ?_, by decide +kernel, by decide +kernel⟩
  simp only [← crcShift_eq_masked]
  rw [List.foldl_const, List.length_replicate, crc8Step_eq_iterate]

/-- A left shift by one and the top bit that it drops determine the byte. -/
theorem eq_of_shiftLeft_one {x y : Byte} (hmsb : x.msb = y.msb) (h : x <<< 1 = y <<< 1) : x = y := by
  refine BitVec.eq_of_getElem_eq fun i hi => ?_
  by_cases htop : i = 7
  · subst htop
    simpa [BitVec.msb_eq_getLsbD_last] using hmsb
  · have hbit := congrArg (·.getLsbD (i + 1)) h
    have hlt : i + 1 < 8 := by omega
    simpa [hlt] using hbit

/-- The polynomial is odd and a shift leaves the lowest bit 0, so that bit is the top bit before. -/
theorem crcShift_getLsbD_zero (x : Byte) : (crcShift x).getLsbD 0 = x.msb := by
  cases h : x.msb <;> simp [crcShift, h, Config.crcPoly]

theorem crcShift_injective : Function.Injective crcShift := by
  intro x y h
  have hmsb : x.msb = y.msb := by rw [← crcShift_getLsbD_zero, h, crcShift_getLsbD_zero]
  refine eq_of_shiftLeft_one hmsb ?_
  cases hy : y.msb <;> simpa [crcShift, hmsb, hy] using h

theorem crc8Step_left_injective (b : Byte) : Function.Injective (crc8Step · b) := fun _ _ h =>
  (BitVec.xor_left_inj b).1 (crcShift_injective.iterate 8 h)

theorem crc8Step_right_injective (r : Byte) : Function.Injective (crc8Step r) := fun _ _ h =>
  (BitVec.xor_right_inj r).1 (crcShift_injective.iterate 8 h)

/-- A register fed with its own value becomes 0. -/
@[simp] theorem crc8Step_self (r : Byte) : crc8Step r r = 0 := by
  rw [crc8Step_eq_iterate, BitVec.xor_self]
  decide

/-- Feeding the same bytes keeps different registers different. -/
theorem foldl_crc8Step_injective (t : List Byte) : Function.Injective (t.foldl crc8Step) := by
  induction t with
  | nil => exact Function.injective_id
  | cons b t ih => exact ih.comp (crc8Step_left_injective b)

/-- The CRC of a concatenation goes on from the first part's (R68). -/
theorem crc8_append (s t : List Byte) : crc8 (s ++ t) = t.foldl crc8Step (crc8 s) := List.foldl_append

/-- Settles O16: the CRC's own byte cancels the register; a changed byte changes the register after it, and the bytes
that follow keep the difference. -/
theorem crcDetectsAChangedByte : Obligations.CrcDetectsAChangedByte := by
  unfold Obligations.CrcDetectsAChangedByte
  constructor
  · intro s
    rw [crc8_append]
    exact crc8Step_self (crc8 s)
  · intro s t a b h
    rw [crc8_append, crc8_append] at h
    exact crc8Step_right_injective (crc8 s) (foldl_crc8Step_injective t h)

/-! ### The CRC commands -/

/-- CRC_FEED refuses an operand above 0xFF (R70). -/
theorem exec_crcFeed_wide {v : BitVec 16} (h : 0xFF < v.toNat) (s : State) :
    exec (.crcFeed v) s = .next (s.fail .invalidArgument) := by
  simp only [exec, execCrcFeed, byteOperand_none h]

/-- CRC_CLEAR has no operand: every field must be zero (R69). -/
theorem decode_crcClear (ch : BitVec 3) (idx : BitVec 8) (a16 : BitVec 16) (a32 : BitVec 32) :
    decode (commandWord 0x04 ch idx a16 a32) =
      if ch = 0 ∧ idx = 0 ∧ a16 = 0 ∧ a32 = 0 then .ok .crcClear else .error .unusedField := by
  refine (decode_commandWord (ofBits_code .crcClear) ch idx a16 a32).trans ?_
  simp [Opcode.fieldMask, Opcode.build]

/-- CRC_FEED reads its byte from the whole of `A16`; the other fields must be zero (R70). -/
theorem decode_crcFeed (ch : BitVec 3) (idx : BitVec 8) (a16 : BitVec 16) (a32 : BitVec 32) :
    decode (commandWord 0x05 ch idx a16 a32) =
      if ch = 0 ∧ idx = 0 ∧ a32 = 0 then .ok (.crcFeed a16) else .error .unusedField := by
  refine (decode_commandWord (ofBits_code .crcFeed) ch idx a16 a32).trans ?_
  simp [Opcode.fieldMask, Opcode.build]

/-- Settles O17: the two encodings, the two commands, the refusal, and the sequence by `execAll_crcSeq`. -/
theorem crcClearAndCrcFeed : Obligations.CrcClearAndCrcFeed := by
  unfold Obligations.CrcClearAndCrcFeed
  refine ⟨decode_crcClear, fun _ => rfl, decode_crcFeed, fun s b => exec_crcFeed_byte b s,
    fun s _ hv => exec_crcFeed_wide hv s, fun s bs => ?_⟩
  obtain ⟨rs, hx, -⟩ := execAll_crcSeq bs s
  exact ⟨_, hx, rfl⟩

end Sys2Proof.Machine
end

section
/-! PROOFS of the family spec/41_waypoint.md: the five commands of the waypoint memory (R74-R78), from `wpInsert_spec`,
and the words that the rules write out. -/

namespace Sys2Proof.Machine

/-! ### The encodings -/

/-- Settles O4: six of the words are `encode` of their command; the other two are words of five fields. -/
theorem writtenWordsDecode : Obligations.WrittenWordsDecode :=
  ⟨decodeOfEncode (.wpAdd 0 0x000A0000 1900), decodeOfEncode (.wpUpdate 1 2 0x00038000 1200),
    decodeOfEncode (.wpRead 0 1), decodeOfEncode (.regRead 0x02), decodeOfEncode (.setFreq 50),
    decodeOfEncode (.setBaud 115200), decode_reserved (op := 0x06) rfl 0 0 0 0,
    decode_commandWord (ofBits_code .wpAdd) 0 1 0x05DC 0⟩

/-- WP_ADD has no index: `IDX` must be zero (R74). -/
theorem decode_wpAdd (ch : BitVec 3) (idx : BitVec 8) (a16 : BitVec 16) (a32 : BitVec 32) :
    decode (commandWord 0x08 ch idx a16 a32) =
      if idx = 0 then .ok (.wpAdd (chanOfBits ch) a32 a16) else .error .unusedField := by
  refine (decode_commandWord (ofBits_code .wpAdd) ch idx a16 a32).trans ?_
  simp [Opcode.fieldMask, Opcode.build]

/-- Every field of WP_UPDATE is an operand (R75). -/
theorem decode_wpUpdate (ch : BitVec 3) (idx : BitVec 8) (a16 : BitVec 16) (a32 : BitVec 32) :
    decode (commandWord 0x09 ch idx a16 a32) = .ok (.wpUpdate (chanOfBits ch) idx a32 a16) := by
  refine (decode_commandWord (ofBits_code .wpUpdate) ch idx a16 a32).trans ?_
  simp [Opcode.fieldMask, Opcode.build]

/-- WP_REMOVE has neither a PWM value nor a time (R76). -/
theorem decode_wpRemove (ch : BitVec 3) (idx : BitVec 8) (a16 : BitVec 16) (a32 : BitVec 32) :
    decode (commandWord 0x0A ch idx a16 a32) =
      if a16 = 0 ∧ a32 = 0 then .ok (.wpRemove (chanOfBits ch) idx) else .error .unusedField := by
  refine (decode_commandWord (ofBits_code .wpRemove) ch idx a16 a32).trans ?_
  simp [Opcode.fieldMask, Opcode.build]

/-- Nor has WP_READ (R77). -/
theorem decode_wpRead (ch : BitVec 3) (idx : BitVec 8) (a16 : BitVec 16) (a32 : BitVec 32) :
    decode (commandWord 0x0B ch idx a16 a32) =
      if a16 = 0 ∧ a32 = 0 then .ok (.wpRead (chanOfBits ch) idx) else .error .unusedField := by
  refine (decode_commandWord (ofBits_code .wpRead) ch idx a16 a32).trans ?_
  simp [Opcode.fieldMask, Opcode.build]

/-- WP_COUNT has the channel alone (R78). -/
theorem decode_wpCount (ch : BitVec 3) (idx : BitVec 8) (a16 : BitVec 16) (a32 : BitVec 32) :
    decode (commandWord 0x0C ch idx a16 a32) =
      if idx = 0 ∧ a16 = 0 ∧ a32 = 0 then .ok (.wpCount (chanOfBits ch)) else .error .unusedField := by
  refine (decode_commandWord (ofBits_code .wpCount) ch idx a16 a32).trans ?_
  simp [Opcode.fieldMask, Opcode.build]

/-! ### WP_ADD -/

/-- WP_ADD of a new time to a full channel (R74). -/
theorem exec_wpAdd_full {s : State} {ch : Chan} {time : RawTime} (pwm : RawPwm)
    (hfind : findTime (s.wpAt ch) time = none) (hfull : 256 ≤ (s.wpAt ch).length) :
    exec (.wpAdd ch time pwm) s = .next (s.fail .storeFull) := by
  have hc : findTime (s.wpAt ch) time = none ∧ Config.params.wpDepth ≤ (s.wpAt ch).length := ⟨hfind, hfull⟩
  simp only [exec, execWpAdd, waypointOperand_eq, wpAddOp, if_pos hc]

/-- WP_ADD of a time already there, or with room for a new one (R74). -/
theorem exec_wpAdd_insert {s : State} {ch : Chan} {time : RawTime} (pwm : RawPwm)
    (hroom : ¬ (findTime (s.wpAt ch) time = none ∧ 256 ≤ (s.wpAt ch).length)) :
    exec (.wpAdd ch time pwm) s = .next ((s.setWp ch (wpInsert (s.wpAt ch) ⟨time, pwm⟩).1).respond .ok
      (indexData (wpInsert (s.wpAt ch) ⟨time, pwm⟩).2)) := by
  have hc : ¬ (findTime (s.wpAt ch) time = none ∧ Config.params.wpDepth ≤ (s.wpAt ch).length) := hroom
  simp only [exec, execWpAdd, waypointOperand_eq, wpAddOp, if_neg hc]

/-- An insertion that replaces, or that finds room, keeps the channel within 256 waypoints (R72, R74). -/
theorem wpInsert_length_le {l : List Waypoint} {w : Waypoint} (h : l.Pairwise fun a b => a.time < b.time)
    (hlen : l.length ≤ 256) (hroom : ¬ (findTime l w.time = none ∧ 256 ≤ l.length)) :
    (wpInsert l w).1.length ≤ 256 := by
  obtain ⟨-, -, -, hl⟩ := wpInsert_spec l w h
  rw [hl]
  split
  · next hfind =>
    have : ¬ 256 ≤ l.length := fun hfull => hroom ⟨hfind, hfull⟩
    omega
  · exact hlen

/-- Settles O19: a channel in canonical form is full when it holds 256; else the new channel is `wpInsert`'s. -/
theorem wpAddInsertsOrReplaces : Obligations.WpAddInsertsOrReplaces := by
  unfold Obligations.WpAddInsertsOrReplaces
  refine ⟨decode_wpAdd, fun s ch time pwm hwf => ?_⟩
  obtain ⟨hsorted, hlen⟩ := hwf ch
  split
  · next h => exact exec_wpAdd_full pwm (findTime_none.2 h.2) h.1.ge
  · next h =>
    have hroom : ¬ (findTime (s.wpAt ch) time = none ∧ 256 ≤ (s.wpAt ch).length) :=
      fun hc => h ⟨hlen.antisymm hc.2, findTime_none.1 hc.1⟩
    obtain ⟨hs, hget, hmem, -⟩ := wpInsert_spec (s.wpAt ch) ⟨time, pwm⟩ hsorted
    exact ⟨_, _, exec_wpAdd_insert pwm hroom, hs, wpInsert_length_le hsorted hlen hroom, hget, hmem⟩

/-! ### WP_UPDATE and WP_REMOVE -/

/-- WP_UPDATE of an index outside the channel (R75). -/
theorem exec_wpUpdate_past {s : State} {ch : Chan} {idx : BitVec 8} (time : RawTime) (pwm : RawPwm)
    (h : (s.wpAt ch).length ≤ indexOperand idx) :
    exec (.wpUpdate ch idx time pwm) s = .next (s.fail .indexOutOfRange) := by
  rw [exec, execWpUpdate, if_pos h]

/-- WP_UPDATE of an entry: it is taken out and the new waypoint inserted (R75). -/
theorem exec_wpUpdate_insert {s : State} {ch : Chan} {idx : BitVec 8} (time : RawTime) (pwm : RawPwm)
    (h : ¬ (s.wpAt ch).length ≤ indexOperand idx) :
    exec (.wpUpdate ch idx time pwm) s =
      .next ((s.setWp ch (wpInsert ((s.wpAt ch).eraseIdx (indexOperand idx)) ⟨time, pwm⟩).1).respond .ok
        (indexData (wpInsert ((s.wpAt ch).eraseIdx (indexOperand idx)) ⟨time, pwm⟩).2)) := by
  rw [exec, execWpUpdate, if_neg h, waypointOperand_eq]

/-- The entries of a channel in canonical form are different, so taking one out leaves exactly the others. -/
theorem mem_eraseIdx_of_sorted {l : List Waypoint} (h : l.Pairwise fun a b => a.time < b.time) {i : Nat}
    {old : Waypoint} (hi : l[i]? = some old) (w : Waypoint) : w ∈ l.eraseIdx i ↔ w ∈ l ∧ w ≠ old := by
  have hnodup : l.Nodup := h.imp fun hlt heq => absurd (heq ▸ hlt) (BitVec.lt_irrefl _)
  obtain ⟨hlt, rfl⟩ := List.getElem?_eq_some_iff.1 hi
  rw [← hnodup.erase_getElem i hlt, hnodup.mem_erase_iff, and_comm]

/-- Settles O20: the insertion of `wpInsert_spec`, into the channel without the indexed entry. -/
theorem wpUpdateReplacesAndResorts : Obligations.WpUpdateReplacesAndResorts := by
  unfold Obligations.WpUpdateReplacesAndResorts
  refine ⟨decode_wpUpdate, fun s ch idx time pwm hwf => ?_⟩
  obtain ⟨hsorted, -⟩ := hwf ch
  cases h : (s.wpAt ch)[idx.toNat]? with
  | none => exact exec_wpUpdate_past time pwm (List.getElem?_eq_none_iff.1 h)
  | some old =>
    have hlt : idx.toNat < (s.wpAt ch).length := (List.getElem?_eq_some_iff.1 h).1
    obtain ⟨hs, hget, hmem, -⟩ := wpInsert_spec _ ⟨time, pwm⟩ (eraseIdx_pairwise hsorted idx.toNat)
    refine ⟨_, _, exec_wpUpdate_insert time pwm hlt.not_ge, hs, hget, fun w => ?_⟩
    rw [hmem, mem_eraseIdx_of_sorted hsorted h, and_assoc]

/-- WP_REMOVE of an index outside the channel (R76). -/
theorem exec_wpRemove_past {s : State} {ch : Chan} {idx : BitVec 8} (h : (s.wpAt ch).length ≤ indexOperand idx) :
    exec (.wpRemove ch idx) s = .next (s.fail .indexOutOfRange) := by
  rw [exec, execWpRemove, if_pos h]

/-- WP_REMOVE of an entry (R76). -/
theorem exec_wpRemove_erase {s : State} {ch : Chan} {idx : BitVec 8} (h : ¬ (s.wpAt ch).length ≤ indexOperand idx) :
    exec (.wpRemove ch idx) s =
      .next ((s.setWp ch ((s.wpAt ch).eraseIdx (indexOperand idx))).respond .ok 0) := by
  rw [exec, execWpRemove, if_neg h]

/-- Settles O21: taking an entry out joins the entries before it to those after it. -/
theorem wpRemoveDeletesTheEntry : Obligations.WpRemoveDeletesTheEntry := by
  unfold Obligations.WpRemoveDeletesTheEntry
  refine ⟨decode_wpRemove, fun s ch idx => ?_⟩
  split
  · next h =>
    rw [← List.eraseIdx_eq_take_drop_succ]
    exact exec_wpRemove_erase h.not_ge
  · next h => exact exec_wpRemove_past (Nat.le_of_not_lt h)

/-! ### WP_READ and WP_COUNT -/

/-- The three fields of WP_READ's data (R77). -/
theorem waypointData_time (w : Waypoint) : (waypointData w).extractLsb' 0 32 = w.time :=
  BitVec.extractLsb'_append_eq_right

theorem waypointData_pwm (w : Waypoint) : (waypointData w).extractLsb' 32 16 = w.pwm :=
  (BitVec.extractLsb'_append_eq_of_le (by decide)).trans BitVec.extractLsb'_append_eq_right

theorem waypointData_top (w : Waypoint) : (waypointData w).extractLsb' 48 8 = 0 :=
  (BitVec.extractLsb'_append_eq_of_le (by decide)).trans
    ((BitVec.extractLsb'_append_eq_of_le (by decide)).trans BitVec.extractLsb'_eq_self)

/-- Settles O22: the entry's data has these fields; a legal channel's length fits the data. -/
theorem wpReadAndWpCount : Obligations.WpReadAndWpCount := by
  unfold Obligations.WpReadAndWpCount
  refine ⟨decode_wpRead, fun s ch idx => ?_, decode_wpCount, fun s ch hwf => ⟨_, rfl, ?_⟩⟩
  · cases h : (s.wpAt ch)[idx.toNat]? with
    | none => exact exec_wpRead_none h
    | some w => exact ⟨_, exec_wpRead_some h, waypointData_time w, waypointData_pwm w, waypointData_top w⟩
  · have hlen : (s.wpAt ch).length ≤ 256 := (hwf ch).2
    exact Nat.mod_eq_of_lt (by omega)

end Sys2Proof.Machine
end

section
/-! PROOFS of the family spec/42_interpolator.md, first part: the Linear and StepHold curves (R79-R81) and the conversion
to a sample (R84). In both modes the recursion follows the waypoints up to the segment of the time: a waypoint at or before
the time has only such waypoints before it. -/

namespace Sys2Proof.Machine

/-- Seconds keep the order of raw times (spec/30_encoding.md R58). -/
theorem sec_lt_sec {a b : Waypoint} (h : a.time < b.time) : a.sec < b.sec := by
  have hlt : (a.time.toNat : ℚ) < b.time.toNat := Nat.cast_lt.2 h
  exact div_lt_div_of_pos_right hlt (by norm_num)

/-- The first waypoint of a rising sequence is the earliest. -/
theorem head_sec_le {p w : Waypoint} {l : List Waypoint} {j : Nat} (h : (p :: l).Pairwise fun a b => a.time < b.time)
    (hw : (p :: l)[j]? = some w) : p.sec ≤ w.sec := by
  rcases List.mem_cons.1 (List.mem_of_getElem? hw) with rfl | hmem
  · exact le_rfl
  · exact (sec_lt_sec ((List.pairwise_cons.1 h).1 w hmem)).le

/-! ### Few waypoints -/

/-- Settles O23: the two first branches of `exactCurve`, before it looks at the mode. -/
theorem curveOfFewWaypoints : Obligations.CurveOfFewWaypoints :=
  ⟨fun _ _ => rfl, fun _ _ _ => rfl⟩

/-- A curve is that of its mode from one waypoint on, since each mode's function is the constant there (R79). -/
theorem curve_linear {l : List Waypoint} (h : l ≠ []) (t : ℚ) : curve .exact l .linear t = some (linearCurve l t) := by
  match l with
  | [_] => rfl
  | _ :: _ :: _ => rfl

theorem curve_stepHold (a : Waypoint) (l : List Waypoint) (t : ℚ) :
    curve .exact (a :: l) .stepHold t = some (holdCurve a l t) := by cases l <;> rfl

theorem curve_polynomial {l : List Waypoint} (h : l ≠ []) (t : ℚ) :
    curve .exact l .polynomial t = some (polynomialCurve l t) := by
  match l with
  | [a] => simp [curve, exactCurve, polynomialCurve, lagrangeBasis]
  | _ :: _ :: _ => rfl

/-! ### Linear mode -/

/-- The Linear curve is the line of the segment that `seg(t)` selects (R80). -/
theorem linearCurve_segment {l : List Waypoint} {t : ℚ} {j : Nat} {a b : Waypoint}
    (h : l.Pairwise fun a b => a.time < b.time) (ha : l[j]? = some a) (hb : l[j + 1]? = some b)
    (hlow : j = 0 ∨ a.sec ≤ t) (hhigh : j + 2 = l.length ∨ t < b.sec) : linearCurve l t = lineThrough a b t := by
  induction l, t using linearCurve.induct generalizing j with
  | case1 t => cases ha
  | case2 t p => cases hb
  | case3 t p q =>
    cases j with
    | zero => cases ha; cases hb; rfl
    | succ j => cases hb
  | case4 p q r rest t hlt =>
    cases j with
    | zero => cases ha; cases hb; exact if_pos hlt
    | succ j =>
      have hq : q.sec ≤ a.sec := head_sec_le h.of_cons ha
      have hat : a.sec ≤ t := hlow.resolve_left (Nat.succ_ne_zero j)
      exact absurd hlt (hq.trans hat).not_gt
  | case5 p q r rest t hge ih =>
    cases j with
    | zero =>
      cases hb
      exact absurd (hhigh.resolve_left (by simp)) hge
    | succ j =>
      refine (if_neg hge).trans (ih h.of_cons ha hb (.inr (hlow.resolve_left (Nat.succ_ne_zero j))) ?_)
      exact hhigh.imp_left Nat.succ.inj

/-- Settles O24: `lineThrough` is the line that the statement writes out. -/
theorem linearCurveBySegment : Obligations.LinearCurveBySegment := by
  unfold Obligations.LinearCurveBySegment
  intro l t j a b h ha hb hlow hhigh
  have hne : l ≠ [] := fun hnil => by simp [hnil] at ha
  rw [curve_linear hne, linearCurve_segment h ha hb hlow hhigh]
  rfl

/-! ### StepHold mode -/

/-- The StepHold curve holds the value of a waypoint that no later one at or before the time follows; the first waypoint
may itself lie after the time (R81). -/
theorem holdCurve_last {l : List Waypoint} {t : ℚ} {j : Nat} {p a : Waypoint}
    (h : (p :: l).Pairwise fun a b => a.time < b.time) (ha : (p :: l)[j]? = some a) (hlow : j = 0 ∨ a.sec ≤ t)
    (hnext : ∀ b, (p :: l)[j + 1]? = some b → t < b.sec) : holdCurve p l t = a.val := by
  induction l generalizing p j with
  | nil =>
    cases j with
    | zero => cases ha; rfl
    | succ j => cases ha
  | cons q rest ih =>
    cases j with
    | zero => cases ha; exact if_neg (hnext q rfl).not_ge
    | succ j =>
      have hat : a.sec ≤ t := hlow.resolve_left (Nat.succ_ne_zero j)
      have hq : q.sec ≤ a.sec := head_sec_le h.of_cons ha
      exact (if_pos (hq.trans hat)).trans (ih h.of_cons ha (.inr hat) hnext)

/-- Settles O25: before the first time the next waypoint, if there is one, lies after the time too. -/
theorem stepHoldCurveHoldsTheLastValue : Obligations.StepHoldCurveHoldsTheLastValue := by
  unfold Obligations.StepHoldCurveHoldsTheLastValue
  intro l t h
  cases l with
  | nil => exact ⟨fun _ ha => by simp at ha, fun _ _ ha => by simp at ha⟩
  | cons p l =>
    refine ⟨fun a ha hlt => ?_, fun j a ha hle hnext => ?_⟩
    · cases ha
      have hnext : ∀ b, (p :: l)[0 + 1]? = some b → t < b.sec := fun b hb =>
        lt_of_lt_of_le hlt (head_sec_le h hb)
      rw [curve_stepHold, holdCurve_last h rfl (.inl rfl) hnext]
      rfl
    · rw [curve_stepHold, holdCurve_last h ha (.inr hle) hnext]
      rfl

/-! ### The sample -/

/-- `clamp` and `clipped` with the bounds of spec/00_scope.md R10 as numerals. -/
theorem clamp_eq (v : ℚ) : clamp v = min 1900 (max 1100 v) := by simp [clamp, Config.pwmMin, Config.pwmMax]

theorem clipped_iff (v : ℚ) : clipped v = true ↔ v < 1100 ∨ 1900 < v := by
  simp [clipped, Config.pwmMin, Config.pwmMax]

/-- Settles O27: a sample is the floor of the clamped value, and the floor is monotone and fixes both bounds. -/
theorem sampleIsTheClampedFloor : Obligations.SampleIsTheClampedFloor := by
  unfold Obligations.SampleIsTheClampedFloor
  intro v
  have hfloor : ((toSample .truncate v).toNat : Int) = ⌊min (1900 : ℚ) (max 1100 v)⌋ := by
    rw [toSample_toNat, clamp_eq]
  have hclamp : ⌊min (1900 : ℚ) (max 1100 v)⌋ = min 1900 (max 1100 ⌊v⌋) := by
    rw [Int.floor_mono.map_min, Int.floor_mono.map_max, Int.floor_ofNat, Int.floor_ofNat]
  obtain ⟨hmin, hmax⟩ := toSample_range v
  exact ⟨hfloor, hfloor.trans hclamp, hmin, hmax, clipped_iff v⟩

end Sys2Proof.Machine
end

section
/-! PROOFS of the family spec/42_interpolator.md, second part: the Polynomial curve (R82). R82's sum of products is
Mathlib's Lagrange interpolant on the channel's waypoints as nodes. -/

namespace Sys2Proof.Machine

/-- The waypoints of a rising sequence have different times, also in seconds. -/
theorem nodup_map_sec {l : List Waypoint} (h : l.Pairwise fun a b => a.time < b.time) : (l.map Waypoint.sec).Nodup :=
  List.pairwise_map.2 (h.imp fun hab => (sec_lt_sec hab).ne)

theorem sec_injOn {l : List Waypoint} (h : l.Pairwise fun a b => a.time < b.time) :
    Set.InjOn Waypoint.sec (l.toFinset : Set Waypoint) := fun _ ha _ hb hab =>
  List.inj_on_of_nodup_map (nodup_map_sec h) (List.mem_toFinset.1 ha) (List.mem_toFinset.1 hb) hab

/-- R82's sum over the indices as a sum over the waypoints. -/
theorem polynomialCurve_eq_sum {l : List Waypoint} (h : l.Nodup) (t : ℚ) :
    polynomialCurve l t = (l.map fun w => w.val * lagrangeBasis w (l.erase w) t).sum := by
  have herase : ∀ wi ∈ l.zipIdx, wi.1.val * lagrangeBasis wi.1 (l.eraseIdx wi.2) t =
      wi.1.val * lagrangeBasis wi.1 (l.erase wi.1) t := by
    rintro ⟨w, i⟩ hwi
    obtain ⟨hi, rfl⟩ : ∃ hi : i < l.length, l[i] = w :=
      List.getElem?_eq_some_iff.1 (List.mem_zipIdx_iff_getElem?.1 hwi)
    simp only [h.erase_getElem i hi]
  have hfst := List.map_map (l := l.zipIdx) (f := Prod.fst) (g := fun w => w.val * lagrangeBasis w (l.erase w) t)
  rw [List.zipIdx_map_fst] at hfst
  rw [polynomialCurve, List.map_congr_left herase, hfst]
  rfl

/-- R82's product over the other waypoints is the basis polynomial's value. -/
theorem lagrangeBasis_eq_eval {l : List Waypoint} (h : l.Nodup) (w : Waypoint) (t : ℚ) :
    lagrangeBasis w (l.erase w) t = (Lagrange.basis l.toFinset Waypoint.sec w).eval t := by
  have hset : (l.erase w).toFinset = l.toFinset.erase w := by
    ext u
    simp [h.mem_erase_iff]
  rw [lagrangeBasis, ← List.prod_toFinset _ (h.erase w), hset, Lagrange.basis, Polynomial.eval_prod]
  refine Finset.prod_congr rfl fun u _ => ?_
  simp [Lagrange.basisDivisor, div_eq_inv_mul]

/-- The polynomial of degree at most `n - 1` through a channel's waypoints. -/
noncomputable def interpolant (l : List Waypoint) : Polynomial ℚ :=
  Lagrange.interpolate l.toFinset Waypoint.sec Waypoint.val

theorem polynomialCurve_eq_eval {l : List Waypoint} (h : l.Nodup) (t : ℚ) :
    polynomialCurve l t = (interpolant l).eval t := by
  rw [polynomialCurve_eq_sum h, ← List.sum_toFinset _ h, interpolant, Lagrange.interpolate_apply,
    Polynomial.eval_finsetSum]
  simp only [lagrangeBasis_eq_eval h, Polynomial.eval_mul, Polynomial.eval_C]

/-- Settles O26: the polynomial is `interpolant`; the last clause is the uniqueness of the Lagrange interpolant. -/
theorem polynomialCurveInterpolates : Obligations.PolynomialCurveInterpolates := by
  unfold Obligations.PolynomialCurveInterpolates
  intro l hne h
  have hnodup : l.Nodup := (nodup_map_sec h).of_map _
  have hcard : l.toFinset.card = l.length := List.toFinset_card_of_nodup hnodup
  have hpos : 0 < l.length := List.length_pos_iff.2 hne
  refine ⟨interpolant l, ?_, fun t => ?_, fun w hw => ?_, fun q hdeg hq => ?_⟩
  · rw [← hcard]
    exact Polynomial.natDegree_le_of_degree_le (Lagrange.degree_interpolate_le _ (sec_injOn h))
  · rw [curve_polynomial hne, polynomialCurve_eq_eval hnodup]
  · exact Lagrange.eval_interpolate_at_node Waypoint.val (sec_injOn h) (List.mem_toFinset.2 hw)
  · refine Lagrange.eq_interpolate_of_eval_eq Waypoint.val (sec_injOn h) ?_ fun w hw => hq w (List.mem_toFinset.1 hw)
    rw [hcard]
    exact Polynomial.degree_le_natDegree.trans_lt (Nat.cast_lt.2 (by omega))

end Sys2Proof.Machine
end

section
/-! PROOFS of the family spec/42_interpolator.md, third part: the commands SET_MODE and CURVE_EVAL (R86, R87). -/

namespace Sys2Proof.Machine

/-! ### SET_MODE -/

/-- SET_MODE has the mode alone (R86). -/
theorem decode_setMode (ch : BitVec 3) (idx : BitVec 8) (a16 : BitVec 16) (a32 : BitVec 32) :
    decode (commandWord 0x10 ch idx a16 a32) =
      if ch = 0 ∧ idx = 0 ∧ a32 = 0 then .ok (.setMode a16) else .error .unusedField := by
  refine (decode_commandWord (ofBits_code .setMode) ch idx a16 a32).trans ?_
  simp [Opcode.fieldMask, Opcode.build]

/-- The operands 0, 1 and 2 are the codes of the three modes (R86, spec/10_state.md R21). -/
theorem exists_mode_code {mode : BitVec 16} (h : mode.toNat ≤ 2) : ∃ m : Mode, mode = m.code.setWidth 16 := by
  have hcases : mode = 0 ∨ mode = 1 ∨ mode = 2 := by bv_omega
  rcases hcases with rfl | rfl | rfl
  · exact ⟨.linear, rfl⟩
  · exact ⟨.stepHold, rfl⟩
  · exact ⟨.polynomial, rfl⟩

/-- SET_MODE refuses an operand above 2 (R86). -/
theorem exec_setMode_above {mode : BitVec 16} (h : 2 < mode.toNat) (s : State) :
    exec (.setMode mode) s = .next (s.fail .invalidArgument) := by
  simp only [exec, execSetMode, modeOperand_none h]

/-- Settles O28: a legal operand is a mode's code, for which `exec_setMode_code` says the whole next state. -/
theorem setModeSelectsTheMode : Obligations.SetModeSelectsTheMode := by
  unfold Obligations.SetModeSelectsTheMode
  refine ⟨decode_setMode, fun s mode => ?_⟩
  split
  · next h =>
    obtain ⟨m, rfl⟩ := exists_mode_code h
    exact ⟨m, by cases m <;> rfl, exec_setMode_code m s⟩
  · next h => exact exec_setMode_above (Nat.lt_of_not_le h) s

/-! ### CURVE_EVAL -/

/-- CURVE_EVAL has the channel and the time (R87). -/
theorem decode_curveEval (ch : BitVec 3) (idx : BitVec 8) (a16 : BitVec 16) (a32 : BitVec 32) :
    decode (commandWord 0x11 ch idx a16 a32) =
      if idx = 0 ∧ a16 = 0 then .ok (.curveEval (chanOfBits ch) a32) else .error .unusedField := by
  refine (decode_commandWord (ofBits_code .curveEval) ch idx a16 a32).trans ?_
  simp [Opcode.fieldMask, Opcode.build]

/-- The three fields of CURVE_EVAL's data (R87). -/
theorem curveData_sample (r : SampleRound) (v : ℚ) : (curveData r v).extractLsb' 0 16 = toSample r v :=
  BitVec.extractLsb'_append_eq_right

theorem curveData_clipped (r : SampleRound) (v : ℚ) : (curveData r v).getLsbD 16 = clipped v := by
  rw [curveData, BitVec.getLsbD_append, BitVec.getLsbD_append]
  simp

theorem curveData_top (r : SampleRound) (v : ℚ) : (curveData r v).extractLsb' 17 39 = 0 :=
  (BitVec.extractLsb'_append_eq_of_le (by decide)).trans
    ((BitVec.extractLsb'_append_eq_of_le (by decide)).trans BitVec.extractLsb'_eq_self)

/-- Settles O29: an empty channel has no curve and any other has one (R79); the data's fields are those of
`curveData`. -/
theorem curveEvalReturnsTheSample : Obligations.CurveEvalReturnsTheSample := by
  unfold Obligations.CurveEvalReturnsTheSample
  refine ⟨decode_curveEval, fun s ch time => ?_⟩
  cases h : curve .exact (s.wpAt ch) s.mode ((time.toNat : ℚ) / 65536) with
  | none =>
    have hnil : s.wpAt ch = [] := by
      by_contra hne
      obtain ⟨v, hv⟩ := curve_of_ne_nil hne s.mode ((time.toNat : ℚ) / 65536)
      rw [h] at hv
      cases hv
    exact ⟨hnil, exec_curveEval_none h⟩
  | some v =>
    have hne : s.wpAt ch ≠ [] := by
      intro hnil
      rw [hnil] at h
      cases h
    refine ⟨hne, _, exec_curveEval_some h, ?_, ?_, curveData_top _ v⟩
    · rw [curveData_sample, ← clamp_eq]
      exact toSample_toNat v
    · rw [curveData_clipped, clipped_iff]

end Sys2Proof.Machine
end

section
/-! PROOFS of the family spec/43_sampler_cache.md: the global maximum time and its rounding (R88, R89), and the command
CACHE_READ (R93). -/

namespace Sys2Proof.Machine

/-! ### The global maximum time and its rounding -/

/-- The raw times of all waypoints, channel by channel: the list `maxRawTime` folds over. -/
def rawTimes (s : State) : List Nat := s.wp.toList.flatMap (fun l => l.map (fun w => w.time.toNat))

/-- `M` is the maximum of 0 and the raw times. -/
theorem max?_rawTimes (s : State) : (0 :: rawTimes s).max? = some (maxRawTime s) :=
  List.max?_cons'

theorem mem_rawTimes (s : State) (x : Nat) :
    x ∈ rawTimes s ↔ ∃ ch : Chan, ∃ w ∈ s.wpAt ch, w.time.toNat = x := by
  simp only [rawTimes, List.mem_flatMap, List.mem_map, mem_wp, exists_exists_eq_and]

/-- `M` bounds every waypoint's time (R88). -/
theorem time_le_maxRawTime {s : State} {ch : Chan} {w : Waypoint} (h : w ∈ s.wpAt ch) : w.time.toNat ≤ maxRawTime s := by
  obtain ⟨-, hle⟩ := List.max?_eq_some_iff.1 (max?_rawTimes s)
  exact hle _ (List.mem_cons_of_mem _ ((mem_rawTimes s _).2 ⟨ch, w, h, rfl⟩))

/-- `M` is 0 or the time of a waypoint (R88). -/
theorem maxRawTime_attained (s : State) :
    maxRawTime s = 0 ∨ ∃ ch : Chan, ∃ w ∈ s.wpAt ch, w.time.toNat = maxRawTime s := by
  obtain ⟨hmem, -⟩ := List.max?_eq_some_iff.1 (max?_rawTimes s)
  exact (List.mem_cons.1 hmem).imp_right (mem_rawTimes s _).1

/-- The rounded value is within half a unit of `m / 65536`, and even when it is exactly half a unit away (R89). -/
theorem roundHalfEven_nearest (m : Nat) :
    2 * ((65536 * roundHalfEven m : Nat) - (m : Int)).natAbs ≤ 65536 ∧
      (2 * ((65536 * roundHalfEven m : Nat) - (m : Int)).natAbs = 65536 → roundHalfEven m % 2 = 0) := by
  simp only [roundHalfEven]
  split
  · omega
  · split
    · omega
    · omega

/-- Settles O30: `M` is the maximum of 0 and the waypoint times; the rounding is `roundHalfEven_nearest` at `M`, and
`roundedMaxTime_le` its bound. -/
theorem maximumTimeRoundsHalfToEven : Obligations.MaximumTimeRoundsHalfToEven := by
  unfold Obligations.MaximumTimeRoundsHalfToEven
  intro s
  obtain ⟨hnear, htie⟩ := roundHalfEven_nearest (maxRawTime s)
  exact ⟨fun _ _ => time_le_maxRawTime, maxRawTime_attained s, hnear, htie, roundedMaxTime_le s⟩

/-! ### CACHE_READ -/

/-- CACHE_READ has the channel and the sample index (R93). -/
theorem decode_cacheRead (ch : BitVec 3) (idx : BitVec 8) (a16 : BitVec 16) (a32 : BitVec 32) :
    decode (commandWord 0x12 ch idx a16 a32) =
      if idx = 0 ∧ a16 = 0 then .ok (.cacheRead (chanOfBits ch) a32) else .error .unusedField := by
  refine (decode_commandWord (ofBits_code .cacheRead) ch idx a16 a32).trans ?_
  simp [Opcode.fieldMask, Opcode.build]

/-- An entry with a specified value reads as that value (spec/10_state.md R35). -/
theorem cacheAt_of_getElem? {s : State} {ch : Chan} {k : Nat} {v : Sample} (h : (s.cache[ch])[k]? = some v) :
    s.cacheAt ch k = v := by
  rw [State.cacheAt, h]

/-- A valid channel's cached curve has an entry at every index below `step_count` (spec/10_state.md R35). -/
theorem exists_sample {s : State} (h : CacheWf s) {ch : Chan} (hv : s.validAt ch = true) {k : Nat}
    (hk : k < s.stepCount.toNat) : ∃ v : Sample, (s.cache[ch])[k]? = some v := by
  have hch := h ch
  rw [if_pos hv] at hch
  obtain ⟨hlen, -⟩ := hch
  exact ⟨_, List.getElem?_eq_getElem (hlen ▸ hk)⟩

/-- Settles O31: one equation of `exec` for each outcome; the sample's entry is that of `exists_sample`. -/
theorem cacheReadReturnsTheSample : Obligations.CacheReadReturnsTheSample := by
  unfold Obligations.CacheReadReturnsTheSample
  refine ⟨decode_cacheRead, fun s ch k hwf => ?_⟩
  split
  · next hv => exact exec_cacheRead_invalid k hv
  · next hv =>
    split
    · next hk => exact exec_cacheRead_past hv hk
    · next hk =>
      obtain ⟨v, hsample⟩ := exists_sample hwf (Bool.eq_true_of_not_eq_false hv) (Nat.lt_of_not_le hk)
      refine ⟨v, hsample, ?_⟩
      rw [exec_cacheRead_sample hv hk, cacheAt_of_getElem? hsample]

end Sys2Proof.Machine
end

section
/-! PROOFS of the family spec/44_framer.md: the frame's layout (R94, R95) and the idle frame's bytes (R96). -/

namespace Sys2Proof.Machine

/-! ### The two bytes of a half-word -/

/-- The two bytes of `le16` make up its half-word, the low one counted once (spec/00_scope.md R13). -/
theorem le16_bytes_toNat (x : BitVec 16) :
    (x.extractLsb' 0 8).toNat + 256 * (x.extractLsb' 8 8).toNat = x.toNat := by
  simp only [BitVec.extractLsb'_toNat, Nat.shiftRight_eq_div_pow]
  omega

/-- Half-words packed one after the other: the `k`-th has its low byte at `2k` and its high byte at `2k + 1`. -/
theorem getElem?_flatMap_le16 {α : Type} (f : α → BitVec 16) (l : List α) (k : Nat) :
    (l.flatMap (fun a => le16 (f a)))[2 * k]? = l[k]?.map (fun a => (f a).extractLsb' 0 8) ∧
      (l.flatMap (fun a => le16 (f a)))[2 * k + 1]? = l[k]?.map (fun a => (f a).extractLsb' 8 8) := by
  induction l generalizing k with
  | nil => exact ⟨rfl, rfl⟩
  | cons a l ih =>
    cases k with
    | zero => exact ⟨rfl, rfl⟩
    | succ k => exact ih k

/-! ### The payload -/

/-- A clamped value fits its half-word (spec/00_scope.md R15). -/
theorem ofInt_clampInt_toNat (x : Int) : ((BitVec.ofInt 16 (clampInt x)).toNat : Int) = min 1900 (max 1100 x) := by
  simp only [clampInt, Config.pwmMax, Config.pwmMin, BitVec.toNat_ofInt]
  omega

@[simp] theorem payload_length (v : Vector Int 8) : (payload v).length = 16 := by
  simp [payload, le16]

/-- Channel `ch`'s clamped value stands at the payload's bytes `2ch` and `2ch + 1` (R94). -/
theorem payload_getElem? (v : Vector Int 8) (ch : Chan) :
    (payload v)[2 * ch.val]? = some ((BitVec.ofInt 16 (clampInt v[ch])).extractLsb' 0 8) ∧
      (payload v)[2 * ch.val + 1]? = some ((BitVec.ofInt 16 (clampInt v[ch])).extractLsb' 8 8) := by
  have hv : v.toList[ch.val]? = some v[ch] := by simp
  have hbytes := getElem?_flatMap_le16 (fun x => BitVec.ofInt 16 (clampInt x)) v.toList ch.val
  rwa [hv] at hbytes

/-! ### The frame -/

@[simp] theorem frame_length (v : Vector Int 8) : (frame v).length = 21 := by
  simp [frame, Config.header]

/-- The first 19 bytes are the header and the payload (R95). -/
theorem frame_take_nineteen (v : Vector Int 8) : (frame v).take 19 = Config.header ++ payload v := by
  rw [frame, List.append_assoc]
  exact List.take_left' (by simp [Config.header])

/-- The payload follows the three bytes of the header (R95). -/
theorem frame_getElem?_payload (v : Vector Int 8) {i : Nat} (hi : i < 16) : (frame v)[3 + i]? = (payload v)[i]? := by
  rw [← List.getElem?_take_of_lt (show 3 + i < 19 by omega), frame_take_nineteen,
    List.getElem?_append_right (Nat.le_add_right 3 i)]
  exact congrArg ((payload v)[·]?) (Nat.add_sub_cancel_left 3 i)

/-- The last two bytes are the CRC and the trailer (R95). -/
theorem frame_drop_nineteen (v : Vector Int 8) :
    (frame v).drop 19 = [crc8 ((frame v).take 19), Config.trailer] := by
  rw [frame_take_nineteen, frame, List.append_assoc]
  exact List.drop_left' (by simp [Config.header])

/-- Byte 19 is the CRC of the bytes before it (R95). -/
theorem frame_getElem?_crc (v : Vector Int 8) : (frame v)[19]? = some (crc8 ((frame v).take 19)) := by
  calc (frame v)[19]? = ((frame v).drop 19)[0]? := by rw [List.getElem?_drop]
    _ = some (crc8 ((frame v).take 19)) := by rw [frame_drop_nineteen, List.getElem?_cons_zero]

/-- Byte 20 is the trailer (R95). -/
theorem frame_getElem?_trailer (v : Vector Int 8) : (frame v)[20]? = some Config.trailer := by
  calc (frame v)[20]? = ((frame v).drop 19)[1]? := by rw [List.getElem?_drop]
    _ = some Config.trailer := by rw [frame_drop_nineteen]; rfl

/-- Bytes `3 + 2ch` and `4 + 2ch` are channel `ch`'s clamped value, low byte first (R95). -/
theorem frame_getElem?_channel (v : Vector Int 8) (ch : Chan) :
    (frame v)[3 + 2 * ch.val]? = some ((BitVec.ofInt 16 (clampInt v[ch])).extractLsb' 0 8) ∧
      (frame v)[4 + 2 * ch.val]? = some ((BitVec.ofInt 16 (clampInt v[ch])).extractLsb' 8 8) := by
  have hhigh : 4 + 2 * ch.val = 3 + (2 * ch.val + 1) := by omega
  rw [hhigh, frame_getElem?_payload v (by omega), frame_getElem?_payload v (by omega)]
  exact payload_getElem? v ch

/-- Eight values that are all `x` are the table of the constant `x`. -/
theorem eq_perChan_const {α : Type} {v : Vector α 8} {x : α} (h : ∀ ch : Chan, v[ch] = x) : v = perChan (fun _ => x) :=
  Vector.ext fun i hi => (h ⟨i, hi⟩).trans (perChan_getElem (fun _ => x) ⟨i, hi⟩).symm

/-- The bytes of the idle frame (R96). -/
theorem idleFrame_eq : idleFrame = [0xAA, 0x00, 0x00, 0xDC, 0x05, 0xDC, 0x05, 0xDC, 0x05, 0xDC, 0x05, 0xDC, 0x05,
    0xDC, 0x05, 0xDC, 0x05, 0xDC, 0x05, 0x81, 0xEE] := by decide +kernel

/-- Settles O32: the clauses are the frame's lemmas above; a channel's two bytes add up to its clamped value, and eight
times 1500 is the idle frame. -/
theorem frameLayout : Obligations.FrameLayout := by
  unfold Obligations.FrameLayout
  intro v
  refine ⟨frame_length v, rfl, fun ch => ?_, frame_getElem?_crc v, frame_getElem?_trailer v, fun h => ?_⟩
  · obtain ⟨hlow, hhigh⟩ := frame_getElem?_channel v ch
    refine ⟨_, _, hlow, hhigh, ?_⟩
    rw [← ofInt_clampInt_toNat, ← le16_bytes_toNat (BitVec.ofInt 16 (clampInt v[ch]))]
    push_cast
    rfl
  · rw [eq_perChan_const h]
    exact idleFrame_eq

end Sys2Proof.Machine
end

section
/-! PROOFS of the family spec/45_scheduler.md, first part: every step keeps the output history one that R101's table
allows, and what the writes of such a history carry. For each command and each autonomous step, the requests it adds. -/

namespace Sys2Proof.Machine

/-! ### The history of a step -/

/-- The output history is one that the link state machine allows, and it leads to the link state held (R101). -/
abbrev LegalHistory (s : State) : Prop := HistoryOf s.history s.link

theorem legalHistory_of_eq {t : State} {h : List TransportEvent} {l : LinkState} (hh : HistoryOf h l)
    (ht : t.history = h) (hl : t.link = l) : LegalHistory t := by
  subst ht hl
  exact hh

/-- No edit of a command makes a transport request or changes the link. -/
theorem edit_link_history {i : Instr} {s u : State} (he : Edit i s u) : u.link = s.link ∧ u.history = s.history := by
  cases he <;> exact ⟨rfl, rfl⟩

/-- CONNECT (R106): a refusal without a request, or a failed or a successful open from Closed. -/
theorem connectOp_legalHistory {s : State} (h : LegalHistory s) : LegalHistory (connectOp s) := by
  rcases connectOp_cases s with ⟨-, hx⟩ | ⟨hl, hx⟩ | ⟨hl, hx⟩
  · rw [hx]; exact h
  · rw [hx]; exact legalHistory_of_eq (.openFailed s.port s.baud (hl ▸ h)) rfl hl
  · rw [hx]; exact .openOk s.port s.baud (hl ▸ h)

/-- STOP (R108): no request in Closed, else the stop sequence from an open link. -/
theorem stopOp_legalHistory {s : State} (h : LegalHistory s) : LegalHistory (stopOp s) := by
  rcases stopOp_cases s with ⟨-, hx⟩ | ⟨hl, hx⟩
  · rw [hx]; exact h
  · rw [hx]; exact .stopped s.nextWrite hl h

/-- START from the rebuild on (R107): the start sequence, and after a failed one the stop sequence. -/
theorem beginStream_legalHistory (p : Params) {s : State} (h : HistoryOf s.history .openIdle) :
    LegalHistory (beginStream p s) := by
  rcases beginStream_cases p s with hx | ⟨w, w', hw, hx⟩
  · rw [hx]; exact .startOk h
  · rw [hx]; exact .startFailed w w' hw h

/-- START (R107): a refusal, a failed open, or a stream begun from Open-Idle or after a successful open. -/
theorem startOp_legalHistory (p : Params) {s : State} (h : LegalHistory s) : LegalHistory (startOp p s) := by
  rcases startOp_cases p s with ⟨e, -, hx⟩ | ⟨hl, hx⟩ | ⟨u, -, hx, ⟨hl, rfl⟩ | ⟨hl, rfl⟩⟩
  · rw [hx]; exact h
  · rw [hx]; exact legalHistory_of_eq (.openFailed s.port s.baud (hl ▸ h)) rfl hl
  · rw [hx]; exact beginStream_legalHistory p (hl ▸ h)
  · rw [hx]; exact beginStream_legalHistory p (.openOk s.port s.baud (hl ▸ h))

theorem exec_legalHistory {i : Instr} {s t : State} (h : LegalHistory s) (hx : exec i s = .next t) : LegalHistory t := by
  rcases exec_cases hx with ⟨e, -, rfl⟩ | ⟨u, d, he, rfl⟩ | ⟨-, rfl⟩ | ⟨-, rfl⟩ | ⟨-, rfl⟩
  · exact h
  · obtain ⟨hl, hh⟩ := edit_link_history he
    exact legalHistory_of_eq h hh hl
  · exact connectOp_legalHistory h
  · exact startOp_legalHistory Config.params h
  · exact stopOp_legalHistory h

theorem performCommand_legalHistory {w : CmdWord} {s t : State} (h : LegalHistory s)
    (hx : performCommand w s = .next t) : LegalHistory t := by
  rcases performCommand_cases hx with ⟨-, -, rfl⟩ | ⟨i, -, hi⟩
  · exact h
  · exact exec_legalHistory h hi

@[simp] theorem strobe_link (s : State) : s.strobe.link = s.link := by
  rcases strobe_cases s with hx | ⟨-, -, hx⟩ | ⟨-, -, hx⟩ | ⟨-, hx⟩ <;> rw [hx]

@[simp] theorem strobe_history (s : State) : s.strobe.history = s.history := by
  rcases strobe_cases s with hx | ⟨-, -, hx⟩ | ⟨-, -, hx⟩ | ⟨-, hx⟩ <;> rw [hx]

/-- The tick while streaming (R110): a frame, a failed frame with the stop sequence, or the stop sequence alone. -/
theorem tick_legalHistory {s : State} (h : LegalHistory s) (hl : s.link = .openStreaming) : LegalHistory s.tick := by
  have hs : HistoryOf s.history .openStreaming := hl ▸ h
  rcases tick_cases s with ⟨-, hx⟩ | ⟨-, w, w', hw, hx⟩ | ⟨-, hx⟩
  · rw [hx]; exact legalHistory_of_eq (.frameOk (perChan s.tickValue) hs) rfl hl
  · rw [hx]; exact .frameFailed (perChan s.tickValue) w w' hw hs
  · rw [hx]; exact .stopped s.nextWrite (by decide) hs

/-- Settles O52: by the agent that moves. Only a command and a tick make requests, and each has its lemma above; reset
empties the history and closes the link. -/
theorem stepKeepsTheHistoryLegal : Obligations.StepKeepsTheHistoryLegal := by
  intro s t h hstep
  obtain ⟨u, ms, n, -, hu, hcase⟩ := step_cases hstep
  have hui : LegalHistory u := by rw [hu]; exact h
  have hul : u.link = s.link := by rw [hu]
  rcases hcase with ⟨w, -, -, rfl⟩ | ⟨-, -, rfl⟩ | ⟨w, -, -, hx⟩ | ⟨-, rfl⟩ | ⟨-, hl, -, -, rfl⟩ | ⟨-, rfl⟩ | ⟨-, rfl⟩
  · exact hui
  · exact hui
  · exact performCommand_legalHistory (s := { u with cmd := none }) hui hx
  · exact legalHistory_of_eq hui (strobe_history u) (strobe_link u)
  · exact tick_legalHistory hui (hul.trans hl)
  · exact hui
  · exact .empty

/-! ### The writes of a legal history -/

/-- A request that writes carries the start sequence or the frame of some eight values (R107, spec/44_framer.md R97). -/
def TransportEvent.CarriesStartOrFrame : TransportEvent → Prop
  | .wrote bytes _ => bytes = Config.startSeq ∨ ∃ v : Vector Int 8, bytes = frame v
  | .opened _ _ _ => True
  | .closed => True

@[simp] theorem opened_carries (p b : BitVec 32) (r : OpenOutcome) :
    (TransportEvent.opened p b r).CarriesStartOrFrame := trivial

@[simp] theorem closed_carries : TransportEvent.closed.CarriesStartOrFrame := trivial

@[simp] theorem wroteStart_carries (w : WriteOutcome) :
    (TransportEvent.wrote Config.startSeq w).CarriesStartOrFrame := .inl rfl

@[simp] theorem wroteFrame_carries (v : Vector Int 8) (w : WriteOutcome) :
    (TransportEvent.wrote (frame v) w).CarriesStartOrFrame := .inr ⟨v, rfl⟩

@[simp] theorem wroteIdle_carries (w : WriteOutcome) :
    (TransportEvent.wrote idleFrame w).CarriesStartOrFrame := wroteFrame_carries _ w

/-- Every row of R101's table appends requests that carry start sequences and frames only. -/
theorem historyOf_carries {h : List TransportEvent} {l : LinkState} (hh : HistoryOf h l) :
    ∀ e ∈ h, e.CarriesStartOrFrame := by
  induction hh with
  | empty => exact List.forall_mem_nil _
  | openFailed _ _ _ ih | openOk _ _ _ ih | startOk _ ih | startFailed _ _ _ _ ih | frameOk _ _ ih
  | frameFailed _ _ _ _ _ ih | stopped _ _ _ ih => exact List.forall_mem_append.2 ⟨ih, by simp⟩

/-- Settles O53: the bytes by `historyOf_carries`; on the wire, by the write's outcome, all, none, or the first ones. -/
theorem writesAreFramesOrStartSequences : Obligations.WritesAreFramesOrStartSequences := by
  intro h l bytes w hh hm
  refine ⟨historyOf_carries hh _ hm, ?_⟩
  cases w with
  | ok => rfl
  | notOpen => rfl
  | failed sent => exact ⟨bytes.drop sent, (List.take_append_drop sent bytes).symm⟩

end Sys2Proof.Machine
end

section
/-! PROOFS of the family spec/45_scheduler.md, second part: the commands SET_FREQ, SET_PORT, SET_BAUD, CONNECT and STOP
(R103-R106, R108), from one equation for each of their outcomes. -/

namespace Sys2Proof.Machine

/-! ### SET_FREQ, SET_PORT and SET_BAUD -/

/-- SET_FREQ has the frequency alone (R103). -/
theorem decode_setFreq (ch : BitVec 3) (idx : BitVec 8) (a16 : BitVec 16) (a32 : BitVec 32) :
    decode (commandWord 0x18 ch idx a16 a32) =
      if ch = 0 ∧ idx = 0 ∧ a32 = 0 then .ok (.setFreq a16) else .error .unusedField := by
  refine (decode_commandWord (ofBits_code .setFreq) ch idx a16 a32).trans ?_
  simp [Opcode.fieldMask, Opcode.build]

/-- SET_PORT has the port alone (R104). -/
theorem decode_setPort (ch : BitVec 3) (idx : BitVec 8) (a16 : BitVec 16) (a32 : BitVec 32) :
    decode (commandWord 0x19 ch idx a16 a32) =
      if ch = 0 ∧ idx = 0 ∧ a16 = 0 then .ok (.setPort a32) else .error .unusedField := by
  refine (decode_commandWord (ofBits_code .setPort) ch idx a16 a32).trans ?_
  simp [Opcode.fieldMask, Opcode.build]

/-- SET_BAUD has the baud rate alone (R105). -/
theorem decode_setBaud (ch : BitVec 3) (idx : BitVec 8) (a16 : BitVec 16) (a32 : BitVec 32) :
    decode (commandWord 0x1A ch idx a16 a32) =
      if ch = 0 ∧ idx = 0 ∧ a16 = 0 then .ok (.setBaud a32) else .error .unusedField := by
  refine (decode_commandWord (ofBits_code .setBaud) ch idx a16 a32).trans ?_
  simp [Opcode.fieldMask, Opcode.build]

/-- SET_FREQ refuses the frequency 0 (R103). -/
theorem exec_setFreq_zero (s : State) : exec (.setFreq 0) s = .next (s.fail .invalidArgument) := rfl

/-- Settles O33: `exec_setFreq_zero` and `exec_setFreq_ne_zero`; the timer is restarted exactly while streaming. -/
theorem setFreqChangesTheInterval : Obligations.SetFreqChangesTheInterval := by
  unfold Obligations.SetFreqChangesTheInterval
  refine ⟨decode_setFreq, fun s f => ?_⟩
  split
  · next hf => rw [hf, exec_setFreq_zero]
  · next hf =>
    rw [exec_setFreq_ne_zero hf]
    split
    · rfl
    · rfl

/-- Settles O34: the encodings, and the two meanings as the model writes them. -/
theorem setPortAndSetBaudStoreTheirOperand : Obligations.SetPortAndSetBaudStoreTheirOperand :=
  ⟨decode_setPort, fun _ _ => rfl, decode_setBaud, fun _ _ => rfl⟩

/-! ### CONNECT -/

/-- CONNECT has no operand (R106). -/
theorem decode_connect (ch : BitVec 3) (idx : BitVec 8) (a16 : BitVec 16) (a32 : BitVec 32) :
    decode (commandWord 0x1B ch idx a16 a32) =
      if ch = 0 ∧ idx = 0 ∧ a16 = 0 ∧ a32 = 0 then .ok .connect else .error .unusedField := by
  refine (decode_commandWord (ofBits_code .connect) ch idx a16 a32).trans ?_
  simp [Opcode.fieldMask, Opcode.build]

theorem exec_connect_refused {s : State} (hl : s.link ≠ .closed) : exec .connect s = .next (s.fail .invalidState) :=
  congrArg Host.Outcome.next (if_neg hl)

theorem exec_connect_ok {s : State} (hl : s.link = .closed) (ho : s.nextOpen = .ok) :
    exec .connect s = .next (({ s.dropOpen with
      link := .openIdle, history := s.history ++ [.opened s.port s.baud .ok] } : State).respond .ok 0) := by
  simp only [exec, execConnect, connectOp, if_pos hl, openLink_ok ho]

theorem exec_connect_failed {s : State} (hl : s.link = .closed) (ho : s.nextOpen = .fail) :
    exec .connect s = .next (({ s.dropOpen with
      history := s.history ++ [.opened s.port s.baud .fail] } : State).fail .linkOpenFailed) := by
  simp only [exec, execConnect, connectOp, if_pos hl, openLink_fail ho]

/-- Settles O35: one equation of `exec` for each outcome. -/
theorem connectOpensTheTransport : Obligations.ConnectOpensTheTransport := by
  unfold Obligations.ConnectOpensTheTransport
  refine ⟨decode_connect, fun s => ?_⟩
  split
  · next hl => exact exec_connect_refused hl
  · next hl =>
    have hclosed : s.link = .closed := not_not.1 hl
    cases ho : s.nextOpen with
    | ok => exact exec_connect_ok hclosed ho
    | fail => exact exec_connect_failed hclosed ho

/-! ### STOP -/

/-- STOP has no operand (R108). -/
theorem decode_stop (ch : BitVec 3) (idx : BitVec 8) (a16 : BitVec 16) (a32 : BitVec 32) :
    decode (commandWord 0x1D ch idx a16 a32) =
      if ch = 0 ∧ idx = 0 ∧ a16 = 0 ∧ a32 = 0 then .ok .stop else .error .unusedField := by
  refine (decode_commandWord (ofBits_code .stop) ch idx a16 a32).trans ?_
  simp [Opcode.fieldMask, Opcode.build]

theorem exec_stop_closed {s : State} (hl : s.link = .closed) : exec .stop s = .next (s.respond .ok 0) :=
  congrArg Host.Outcome.next (if_pos hl)

/-- STOP with the link open (R108): the stop sequence, then the write's code reported. -/
theorem exec_stop_open {s : State} (hl : s.link ≠ .closed) : exec .stop s = .next (({ s.dropWrite with
    tickPending := false, tickCtr := 0, link := .closed
    lastErr := if s.nextWrite = .ok then s.lastErr else s.nextWrite.errCode
    history := s.history ++ [.wrote idleFrame s.nextWrite, .closed] } : State).respond s.nextWrite.errCode 0) := by
  obtain ⟨hc, -⟩ | ⟨-, hx⟩ := stopOp_cases s
  · exact absurd hc hl
  · exact congrArg Host.Outcome.next hx

/-- Settles O38: `exec_stop_closed` and `exec_stop_open`, the latter by the write's outcome. -/
theorem stopEndsClosed : Obligations.StopEndsClosed := by
  unfold Obligations.StopEndsClosed
  refine ⟨decode_stop, fun s => exec_stop_closed, fun s hl => ?_⟩
  have hstop := exec_stop_open hl
  cases hw : s.nextWrite with
  | ok | notOpen | failed n => rw [hstop, hw]; rfl

end Sys2Proof.Machine
end

section
/-! PROOFS of the family spec/45_scheduler.md, third part: the command START (R107), its refusals in the order of
spec/60_exceptions.md R122, then the rebuild and the start sequence. -/

namespace Sys2Proof.Machine

/-! ### The refusals -/

/-- START has no operand (R107). -/
theorem decode_start (ch : BitVec 3) (idx : BitVec 8) (a16 : BitVec 16) (a32 : BitVec 32) :
    decode (commandWord 0x1C ch idx a16 a32) =
      if ch = 0 ∧ idx = 0 ∧ a16 = 0 ∧ a32 = 0 then .ok .start else .error .unusedField := by
  refine (decode_commandWord (ofBits_code .start) ch idx a16 a32).trans ?_
  simp [Opcode.fieldMask, Opcode.build]

theorem exec_start_streaming {s : State} (hl : s.link = .openStreaming) :
    exec .start s = .next (s.fail .invalidState) :=
  congrArg Host.Outcome.next (if_pos hl)

/-- Off the stream START fails with what the rebuild check raises (R107, spec/43_sampler_cache.md R90). -/
theorem exec_start_unchecked {s : State} {e : ErrCode} (hl : s.link ≠ .openStreaming)
    (hc : rebuildCheck Config.params s = some e) : exec .start s = .next (s.fail e) := by
  simp only [exec, execStart, startOp, if_neg hl, hc]

theorem exec_start_openFailed {s : State} (hl : s.link = .closed) (hc : rebuildCheck Config.params s = none)
    (ho : s.nextOpen = .fail) :
    exec .start s = .next (({ s.dropOpen with
      history := s.history ++ [.opened s.port s.baud .fail] } : State).fail .linkOpenFailed) := by
  have hs : s.link ≠ .openStreaming := by simp [hl]
  simp only [exec, execStart, startOp, if_neg hs, if_pos hl, hc, openLink_fail ho]

/-- Settles O36: the streaming check, then the two outcomes of the rebuild check, then the open. -/
theorem startRefusalsInOrder : Obligations.StartRefusalsInOrder := by
  unfold Obligations.StartRefusalsInOrder
  refine ⟨decode_start, fun s => exec_start_streaming, fun s hl hempty => ?_, fun s ch hl hne hn => ?_,
    fun s ch hl hne hn ho => ?_⟩
  · exact exec_start_unchecked hl (rebuildCheck_empty _ hempty)
  · exact exec_start_unchecked hl (rebuildCheck_overflow hne hn)
  · exact exec_start_openFailed hl (rebuildCheck_ok hne hn) ho

/-! ### The stream -/

/-- `u` is `s` with the link open: as it is in Open-Idle, or after a successful open from Closed (R107). -/
abbrev OpensTo (s u : State) : Prop :=
  s.link = .openIdle ∧ u = s ∨ s.link = .closed ∧ s.nextOpen = .ok ∧
    u = { s.dropOpen with link := .openIdle, history := s.history ++ [.opened s.port s.baud .ok] }

/-- With its checks passed and the link open START goes on to the rebuild (R107). -/
theorem exec_start_begins {s u : State} (hc : rebuildCheck Config.params s = none) (hu : OpensTo s u) :
    exec .start s = .next (beginStream Config.params u) := by
  rcases hu with ⟨hl, rfl⟩ | ⟨hl, ho, rfl⟩
  · simp [exec, execStart, startOp, hl, hc]
  · simp only [exec, execStart, startOp, hl, reduceCtorEq, if_false, if_true, hc, openLink_ok ho]

theorem rebuild_nextWrite (p : Params) (s : State) : (rebuild p s).nextWrite = s.nextWrite := by
  rw [rebuild_eq]; rfl

theorem beginStream_ok {p : Params} {s : State} (hw : s.nextWrite = .ok) :
    beginStream p s = ({ (rebuild p s).dropWrite with
      cursor := 0, tickCtr := 0, tickPending := false, link := .openStreaming
      history := (rebuild p s).history ++ [.wrote Config.startSeq .ok] } : State).respond .ok 0 := by
  simp only [beginStream, transportWrite_eq, rebuild_nextWrite, hw]

theorem beginStream_failed {p : Params} {s : State} (hw : s.nextWrite ≠ .ok) :
    beginStream p s = ({ (rebuild p s).dropWrite.dropWrite with
      tickPending := false, tickCtr := 0, link := .closed, lastErr := s.nextWrite.errCode
      events := (rebuild p s).events ||| 0x0002
      history := (rebuild p s).history ++
        [.wrote Config.startSeq s.nextWrite, .wrote idleFrame (rebuild p s).dropWrite.nextWrite, .closed] } : State).respond
      s.nextWrite.errCode 0 := by
  simp only [beginStream, transportWrite_eq, rebuild_nextWrite, forcedStop_eq]
  cases h : s.nextWrite with
  | ok => exact absurd h hw
  | notOpen | failed n => simp only [List.append_assoc, List.cons_append, List.nil_append]; rfl

/-- The rebuild of `s`, opened or not, in the words of the statement: the channels' samples, and EMPTY_CHANNEL exactly
if some channel is empty (R92). -/
theorem rebuild_of_opensTo (p : Params) {s u : State} (hu : OpensTo s u) : rebuild p u = { u with
    cache := (rebuild p s).cache, curveValid := (rebuild p s).curveValid, cacheStale := false
    stepCount := BitVec.ofNat 32 (roundedMaxTime s * s.freq.toNat + 1)
    rmax := BitVec.ofNat 32 (roundedMaxTime s)
    events := if ∃ c : Chan, s.wpAt c = [] then s.events ||| 0x0004 else s.events } := by
  have hev : (if anyEmpty s = true then s.events ||| 0x0004 else s.events) =
      if ∃ c : Chan, s.wpAt c = [] then s.events ||| 0x0004 else s.events := if_congr (anyEmpty_iff s) rfl rfl
  rw [← hev, rebuild_eq, rebuild_eq]
  rcases hu with ⟨-, rfl⟩ | ⟨-, -, rfl⟩
  · rfl
  · rfl

/-- What the rebuild leaves in one channel (R91, R92): an empty one is invalid; another holds one sample for each
`t_k = k / f`, the clamped floor of its curve there. -/
theorem rebuild_channel (s : State) (c : Chan) :
    if s.wpAt c = [] then (rebuild Config.params s).curveValid.getLsbD c.val = false
    else (rebuild Config.params s).curveValid.getLsbD c.val = true ∧
      ((rebuild Config.params s).cache[c]).length = roundedMaxTime s * s.freq.toNat + 1 ∧
      ∀ k ≤ roundedMaxTime s * s.freq.toNat, ∃ (v : ℚ) (x : Sample),
        curve .exact (s.wpAt c) s.mode ((k : ℚ) / (s.freq.toNat : ℚ)) = some v ∧
        ((rebuild Config.params s).cache[c])[k]? = some x ∧ (x.toNat : Int) = ⌊min (1900 : ℚ) (max 1100 v)⌋ := by
  rw [rebuild_eq]
  simp only [chanMask_getLsbD, perChan_getElem]
  split
  · next hc => simp [hc]
  · next hc =>
    obtain ⟨g, hcurve, hsamples⟩ := sampleChannel_of_ne_nil hc s.mode s.freq (stepCountFor s)
    rw [hsamples]
    refine ⟨by simpa using hc, by simp [stepCountFor], fun k hk => ⟨g k, toSample .truncate (g k), hcurve k, ?_, ?_⟩⟩
    · simp [stepCountFor, Nat.lt_succ_of_le hk]
    · rw [← clamp_eq]; exact toSample_toNat (g k)

/-- Settles O37: the cache is the rebuild's, by `rebuild_channel`; then by the outcome of the start write. -/
theorem startRebuildsAndStreamsOrStops : Obligations.StartRebuildsAndStreamsOrStops := by
  unfold Obligations.StartRebuildsAndStreamsOrStops
  intro s u ch hne hn hu
  refine ⟨(rebuild Config.params s).cache, (rebuild Config.params s).curveValid, rebuild_channel s, ?_⟩
  rw [exec_start_begins (rebuildCheck_ok hne hn) hu]
  have hr := rebuild_of_opensTo Config.params hu
  cases hw : u.nextWrite with
  | ok => rw [beginStream_ok hw, hr]; rfl
  | notOpen | failed n => rw [beginStream_failed (by simp [hw]), hr, hw]; rfl

end Sys2Proof.Machine
end

section
/-! PROOFS of the family spec/45_scheduler.md, fourth part: the timebase strobe (R109) and the tick (R110), one equation
for each of their outcomes; then a whole interval of strobes. -/

namespace Sys2Proof.Machine

/-! ### The strobe -/

theorem strobe_off {s : State} (hl : s.link ≠ .openStreaming) : s.strobe = s := if_neg hl

theorem strobe_counts {s : State} (hl : s.link = .openStreaming) (hc : (s.tickCtr + 1).toNat < interval s.freq) :
    s.strobe = { s with tickCtr := s.tickCtr + 1 } := by
  rw [State.strobe, if_pos hl, if_neg (Nat.not_le.2 hc)]

theorem strobe_expires {s : State} (hl : s.link = .openStreaming) (hc : interval s.freq ≤ (s.tickCtr + 1).toNat) :
    s.strobe = if s.tickPending then { s with tickCtr := 0, events := s.events ||| 0x0008 }
      else { s with tickCtr := 0, tickPending := true } := by
  rw [State.strobe, if_pos hl, if_pos hc]
  rfl

/-- Settles O39: one equation for each case. -/
theorem strobeCountsAndExpires : Obligations.StrobeCountsAndExpires :=
  ⟨fun _ => strobe_off, fun _ => strobe_counts, fun _ => strobe_expires⟩

/-- The last of some strobes comes after the others. -/
theorem strobes_succ (k : Nat) (s : State) : strobes (k + 1) s = (strobes k s).strobe := by
  induction k generalizing s with
  | zero => rfl
  | succ k ih => exact ih s.strobe

/-- A count below the longest interval fits the 16-bit timer (spec/10_state.md R33). -/
theorem counter_succ_toNat {k : Nat} (hk : k < 1000) : (BitVec.ofNat 16 k + 1).toNat = k + 1 := by
  bv_omega

/-- Short of the interval, strobes from a cleared timer only count (R109). -/
theorem strobes_count {s : State} (hl : s.link = .openStreaming) (h0 : s.tickCtr = 0) {k : Nat}
    (hk : k < interval s.freq) : strobes k s = { s with tickCtr := BitVec.ofNat 16 k } := by
  induction k with
  | zero =>
    have hz : BitVec.ofNat 16 0 = s.tickCtr := h0.symm
    rw [hz]
    rfl
  | succ k ih =>
    have hnext : BitVec.ofNat 16 (k + 1) = BitVec.ofNat 16 k + 1 := BitVec.ofNat_add k 1
    have hle := interval_le s.freq
    have hval := counter_succ_toNat (show k < 1000 by omega)
    rw [strobes_succ, ih (Nat.lt_of_succ_lt hk), hnext]
    exact strobe_counts (s := { s with tickCtr := BitVec.ofNat 16 k }) hl (hval ▸ hk)

/-- A whole interval of strobes from a cleared timer (R109): the timer is cleared again, and it expired once. -/
theorem strobes_interval {s : State} (hl : s.link = .openStreaming) (h0 : s.tickCtr = 0) :
    strobes (interval s.freq) s =
      if s.tickPending then { s with events := s.events ||| 0x0008 } else { s with tickPending := true } := by
  obtain ⟨k, hk⟩ := Nat.exists_eq_add_one.2 (interval_pos s.freq)
  have hle := interval_le s.freq
  have hval := counter_succ_toNat (show k < 1000 by omega)
  rw [hk, strobes_succ, strobes_count hl h0 (Nat.lt_of_succ_le hk.ge),
    strobe_expires (s := { s with tickCtr := BitVec.ofNat 16 k }) hl (hk.trans hval.symm).le, ← h0]

/-- Settles O40: `strobes_count` and `strobes_interval`. -/
theorem tickPendingEveryInterval : Obligations.TickPendingEveryInterval :=
  fun _ hl h0 => ⟨fun _ => strobes_count hl h0, strobes_interval hl h0⟩

/-! ### The tick -/

/-- The tick reads no field that taking the pending tick writes. -/
theorem tickValue_tickPending (s : State) (b : Bool) : ({ s with tickPending := b } : State).tickValue = s.tickValue :=
  rfl

theorem nextWrite_tickPending (s : State) (b : Bool) : ({ s with tickPending := b } : State).nextWrite = s.nextWrite :=
  rfl

/-- A tick whose frame is written (R110): the cursor advances. -/
theorem tick_ok {s : State} (hc : s.cursor ≤ s.stepCount) (hw : s.nextWrite = .ok) : s.tick = { s.dropWrite with
    tickPending := false, cursor := s.cursor + 1
    history := s.history ++ [.wrote (frame (perChan s.tickValue)) .ok] } := by
  rw [State.tick, if_pos hc]
  simp only [State.tickFrame, transportWrite_eq, tickValue_tickPending, nextWrite_tickPending, hw]
  rfl

/-- A tick whose frame is not written (R110, R102): a forced stop with the write's code. -/
theorem tick_failed {s : State} (hc : s.cursor ≤ s.stepCount) (hw : s.nextWrite ≠ .ok) :
    s.tick = { s.dropWrite.dropWrite with
      tickPending := false, tickCtr := 0, link := .closed, lastErr := s.nextWrite.errCode, events := s.events ||| 0x0002
      history := s.history ++ [.wrote (frame (perChan s.tickValue)) s.nextWrite,
        .wrote idleFrame s.dropWrite.nextWrite, .closed] } := by
  rw [State.tick, if_pos hc]
  simp only [State.tickFrame, transportWrite_eq, tickValue_tickPending, nextWrite_tickPending, forcedStop_eq]
  cases h : s.nextWrite with
  | ok => exact absurd h hw
  | notOpen | failed n => simp only [List.append_assoc, List.cons_append, List.nil_append]; rfl

/-- A tick past the end (R110): the automatic stop. -/
theorem tick_past {s : State} (hc : s.stepCount < s.cursor) : s.tick = { s.dropWrite with
    tickPending := false, tickCtr := 0, link := .closed, events := s.events ||| 0x0001
    lastErr := if s.nextWrite = .ok then s.lastErr else s.nextWrite.errCode
    history := s.history ++ [.wrote idleFrame s.nextWrite, .closed] } := by
  have hn : ¬ s.cursor ≤ s.stepCount := BitVec.not_le.2 hc
  rcases tick_cases s with ⟨hle, -⟩ | ⟨hle, -⟩ | ⟨-, hx⟩
  · exact absurd hle hn
  · exact absurd hle hn
  · exact hx

/-- The value a tick sends for a valid channel below the end is the cached sample at the cursor (R110). -/
theorem tickValue_sample {s : State} (h : CacheWf s) {ch : Chan} (hv : s.validAt ch = true)
    (hc : s.cursor < s.stepCount) :
    ∃ x : Sample, (s.cache[ch])[s.cursor.toNat]? = some x ∧ s.tickValue ch = (x.toNat : Int) := by
  obtain ⟨x, hx⟩ := exists_sample h hv (BitVec.lt_def.1 hc)
  refine ⟨x, hx, ?_⟩
  rw [State.tickValue, if_pos ⟨hv, hc⟩, cacheAt_of_getElem? hx]

/-- A channel without a curve idles, and so do all at `cursor = step_count` (R110). -/
theorem tickValue_idle {s : State} {ch : Chan} (h : ¬ (s.validAt ch = true ∧ s.cursor < s.stepCount)) :
    s.tickValue ch = 1500 := if_neg h

/-- Settles O41: the frame's values by `tickValue_sample` and `tickValue_idle`, the outcomes by the tick's equations. -/
theorem tickSendsOneFrame : Obligations.TickSendsOneFrame := by
  unfold Obligations.TickSendsOneFrame
  refine ⟨tickEnabled_iff, fun s hwf hc => ⟨perChan s.tickValue, fun ch => ?_, ?_⟩, fun s => tick_past⟩
  · rw [perChan_getElem]
    exact ⟨fun ⟨hv, hlt⟩ => tickValue_sample hwf hv hlt, tickValue_idle⟩
  · cases hw : s.nextWrite with
    | ok => exact tick_ok hc hw
    | notOpen | failed n => rw [tick_failed hc (by simp [hw]), hw]

end Sys2Proof.Machine
end

section
/-! PROOFS of the family spec/45_scheduler.md, fifth part: who changes the link state (R101, R20), what ends a run (R112),
and that a STOP wins over a pending tick (R111). For each command and the tick, from where to where it moves the link. -/

namespace Sys2Proof.Machine

/-! ### The link -/

theorem connectOp_link (s : State) :
    (connectOp s).link = s.link ∨ s.link = .closed ∧ (connectOp s).link = .openIdle := by
  rcases connectOp_cases s with ⟨-, hx⟩ | ⟨-, hx⟩ | ⟨hl, hx⟩
  · rw [hx]; exact .inl rfl
  · rw [hx]; exact .inl rfl
  · rw [hx]; exact .inr ⟨hl, rfl⟩

theorem stopOp_link (s : State) : (stopOp s).link = .closed := by
  rcases stopOp_cases s with ⟨hl, hx⟩ | ⟨-, hx⟩
  · rw [hx]; exact hl
  · rw [hx]; rfl

theorem beginStream_link (p : Params) (s : State) :
    (beginStream p s).link = .openStreaming ∨ (beginStream p s).link = .closed := by
  rcases beginStream_cases p s with hx | ⟨w, w', -, hx⟩
  · rw [hx]; exact .inl rfl
  · rw [hx]; exact .inr rfl

/-- START (R107): from Closed a forced stop leads back, so only a begun stream is a change. -/
theorem startOp_link (p : Params) (s : State) :
    (startOp p s).link = s.link ∨ s.link = .closed ∧ (startOp p s).link = .openStreaming ∨
      s.link = .openIdle ∧ ((startOp p s).link = .openStreaming ∨ (startOp p s).link = .closed) := by
  rcases startOp_cases p s with ⟨e, -, hx⟩ | ⟨-, hx⟩ | ⟨u, -, hx, ⟨hl, -⟩ | ⟨hl, -⟩⟩
  · rw [hx]; exact .inl rfl
  · rw [hx]; exact .inl rfl
  · rw [hx]; exact .inr (.inr ⟨hl, beginStream_link p u⟩)
  · rw [hx]
    obtain hs | hc := beginStream_link p u
    · exact .inr (.inl ⟨hl, hs⟩)
    · exact .inl (hc.trans hl.symm)

/-- The rows of R101's table that belong to a command: it may move the link from `l` to `l'`. -/
abbrev MovesLink (i : Instr) (l l' : LinkState) : Prop :=
  (i = .connect ∧ l = .closed ∧ l' = .openIdle) ∨
  (i = .start ∧ (l = .closed ∧ l' = .openStreaming ∨ l = .openIdle ∧ (l' = .openStreaming ∨ l' = .closed))) ∨
  (i = .stop ∧ l' = .closed)

theorem exec_link {i : Instr} {s t : State} (h : exec i s = .next t) : t.link = s.link ∨ MovesLink i s.link t.link := by
  rcases exec_cases h with ⟨e, -, rfl⟩ | ⟨u, d, he, rfl⟩ | ⟨hi, rfl⟩ | ⟨hi, rfl⟩ | ⟨hi, rfl⟩
  · exact .inl rfl
  · exact .inl (edit_link_history he).1
  · exact (connectOp_link s).imp_right fun hm => .inl ⟨hi, hm⟩
  · exact (startOp_link Config.params s).imp_right fun hm => .inr (.inl ⟨hi, hm⟩)
  · exact .inr (.inr (.inr ⟨hi, stopOp_link s⟩))

/-- A word that does not decode leaves the link (spec/30_encoding.md R61). -/
theorem performCommand_link {w : CmdWord} {s t : State} (h : performCommand w s = .next t) :
    t.link = s.link ∨ ∃ i, decode w = .ok i ∧ MovesLink i s.link t.link := by
  rcases performCommand_cases h with ⟨-, -, rfl⟩ | ⟨i, hd, hx⟩
  · exact .inl rfl
  · exact (exec_link hx).imp_right fun hm => ⟨i, hd, hm⟩

/-- A tick (R110) leaves the link or closes it: with RUN_DONE past the end, with FORCED_STOP before. -/
theorem tick_link (s : State) : s.tick.link = s.link ∨ s.tick.link = .closed ∧
    (s.stepCount < s.cursor ∧ s.tick.events = s.events ||| 0x0001 ∨
      s.cursor ≤ s.stepCount ∧ s.tick.events = s.events ||| 0x0002) := by
  rcases tick_cases s with ⟨-, hx⟩ | ⟨hc, w, w', -, hx⟩ | ⟨hc, hx⟩
  · rw [hx]; exact .inl rfl
  · rw [hx]; exact .inr ⟨rfl, .inr ⟨hc, rfl⟩⟩
  · rw [hx]; exact .inr ⟨rfl, .inl ⟨BitVec.not_le.1 hc, rfl⟩⟩

/-- Settles O46: by the agent that moves; a move that leaves the link contradicts the hypothesis. -/
theorem onlyTheSchedulerChangesTheLink : Obligations.OnlyTheSchedulerChangesTheLink := by
  intro s t hstep hne
  obtain ⟨u, ms, n, -, hu, hcase⟩ := step_cases hstep
  have hul : u.link = s.link := by rw [hu]
  rcases hcase with ⟨w, -, -, rfl⟩ | ⟨-, -, rfl⟩ | ⟨w, hm, hw, hx⟩ | ⟨-, rfl⟩ | ⟨hm, hl, -, -, rfl⟩ | ⟨-, rfl⟩ | ⟨hm, rfl⟩
  · exact absurd hul hne
  · exact absurd hul hne
  · rw [hm]
    obtain hk | ⟨i, hd, hi⟩ := performCommand_link hx
    · exact absurd (hk.trans hul) hne
    · rw [show ({ u with cmd := none } : State).link = s.link from hul] at hi
      refine ⟨w, hw, ?_⟩
      rw [hd]
      rcases hi with ⟨rfl, hi⟩ | ⟨rfl, hi⟩ | ⟨rfl, hi⟩
      · exact .inl ⟨rfl, hi⟩
      · exact .inr (.inl ⟨rfl, hi⟩)
      · exact .inr (.inr ⟨rfl, hi⟩)
  · exact absurd ((strobe_link u).trans hul) hne
  · rw [hm]
    obtain hk | ⟨hc, -⟩ := tick_link u
    · exact absurd (hk.trans hul) hne
    · exact ⟨hl, hc⟩
  · exact absurd hul hne
  · rw [hm]; rfl

/-! ### The end of a run -/

/-- The only command that takes the link out of Open-Streaming is STOP, and it closes it (R101). -/
theorem movesLink_streaming {i : Instr} {l : LinkState} (h : MovesLink i .openStreaming l) :
    i = .stop ∧ l = .closed := by
  rcases h with ⟨-, hl, -⟩ | ⟨-, ⟨hl, -⟩ | ⟨hl, -⟩⟩ | hstop
  · cases hl
  · cases hl
  · cases hl
  · exact hstop

/-- Settles O57: by the agent that moves; a move that leaves the link leaves it streaming. -/
theorem whatEndsARun : Obligations.WhatEndsARun := by
  intro s t hstep hs ht
  obtain ⟨u, ms, n, -, hu, hcase⟩ := step_cases hstep
  have hul : u.link = .openStreaming := by rw [hu]; exact hs
  rcases hcase with ⟨w, -, -, rfl⟩ | ⟨-, -, rfl⟩ | ⟨w, hm, hw, hx⟩ | ⟨-, rfl⟩ | ⟨hm, -, -, -, rfl⟩ | ⟨-, rfl⟩ | ⟨hm, rfl⟩
  · exact absurd hul ht
  · exact absurd hul ht
  · obtain hk | ⟨i, hd, hi⟩ := performCommand_link hx
    · exact absurd (hk.trans hul) ht
    · rw [show ({ u with cmd := none } : State).link = .openStreaming from hul] at hi
      obtain ⟨rfl, hc⟩ := movesLink_streaming hi
      exact ⟨hc, .inr (.inl ⟨hm, w, hw, hd⟩)⟩
  · exact absurd ((strobe_link u).trans hul) ht
  · obtain hk | ⟨hc, hend⟩ := tick_link u
    · exact absurd (hk.trans hul) ht
    · subst hu
      exact ⟨hc, .inr (.inr (hend.imp (⟨hm, ·⟩) (⟨hm, ·⟩)))⟩
  · exact absurd hul ht
  · exact ⟨rfl, .inl hm⟩

/-! ### Stop wins -/

/-- A run begins with one step. -/
theorem run_succ {M : Host.Core} {s t : M.State} (h : M.step s = .next t) (k : Nat) : M.run (k + 1) s = M.run k t := by
  simp only [Host.Core.run, h]

/-- A tick move with the tick not enabled only passes (R111, log 1). -/
theorem step_tick_disabled {s : State} {rest : List Move} (hs : s.sched = .tick :: rest)
    (hoff : s.link ≠ .openStreaming ∨ s.tickPending = false ∨ s.cmd ≠ none) :
    step s = .next { s with sched := rest } := by
  obtain ⟨-, -, hdisabled, -⟩ := stepOfEachAgent
  exact hdisabled s rest hs hoff

/-- The step that performs a waiting STOP with the link open (R108). -/
theorem step_stop {s : State} {rest : List Move} {w : CmdWord} (hs : s.sched = .command :: rest)
    (hc : s.cmd = some w) (hd : decode w = .ok .stop) (hl : s.link ≠ .closed) :
    ∃ t, step s = .next t ∧ t.sched = rest ∧ t.link = .closed ∧ t.tickPending = false ∧
      t.history = s.history ++ [.wrote idleFrame s.nextWrite, .closed] :=
  ⟨_, (stepRunsDecodedCommand s w .stop rest hs hc hd).trans (exec_stop_open hl), rfl, rfl, rfl, rfl⟩

/-- Settles O56: the waiting STOP disables the first tick, and the link it closes disables the second. -/
theorem stopWinsOverAPendingTick : Obligations.StopWinsOverAPendingTick := by
  intro s rest hl _ hc hs
  have hdecode : decode 0xE800000000000000 = .ok .stop := by decide
  have hfirst := step_tick_disabled hs (.inr (.inr (by simp [hc])))
  obtain ⟨t, hstop, hsched, hlink, hpending, hhistory⟩ :=
    step_stop (s := { s with sched := [.command, .tick] ++ rest }) rfl hc hdecode (by simp [hl])
  have hsecond := step_tick_disabled hsched (.inl (by simp [hlink]))
  refine ⟨{ t with sched := rest }, ?_, hlink, hpending, hhistory⟩
  calc Sys2Proof.core.run 3 s
    _ = Sys2Proof.core.run 2 { s with sched := [.command, .tick] ++ rest } := run_succ hfirst 2
    _ = Sys2Proof.core.run 1 t := run_succ hstop 1
    _ = .next { t with sched := rest } := run_succ hsecond 0

end Sys2Proof.Machine
end

section
/-! PROOFS of the family spec/45_scheduler.md, sixth part: a whole run (R112, R110, R109). One interval is one tick; by
induction on the intervals the cached samples go out in cursor order; the interval past the end stops the run. -/

namespace Sys2Proof.Machine

/-! ### One interval -/

/-- A stream between two ticks with no host command: the timer cleared, no tick pending. -/
abbrev BetweenTicks (s : State) : Prop :=
  s.link = .openStreaming ∧ s.tickCtr = 0 ∧ s.tickPending = false ∧ s.cmd = none

/-- An interval between two ticks ends with a tick (R109, R110). -/
theorem intervals_succ {s : State} (h : BetweenTicks s) (m : Nat) :
    intervals (m + 1) s = intervals m ({ s with tickPending := true } : State).tick := by
  obtain ⟨hl, h0, hp, hc⟩ := h
  have hstrobes : strobes (interval s.freq) s = { s with tickPending := true } := by
    rw [strobes_interval hl h0, if_neg (by simp [hp])]
  have henabled : ({ s with tickPending := true } : State).tickEnabled = true := (tickEnabled_iff _).2 ⟨hl, rfl, hc⟩
  rw [intervals]
  simp only [hstrobes, if_pos henabled]

/-- With answers listed, a write takes the first of them (log 3). -/
theorem dropWrite_cons {s : State} {w : WriteOutcome} {ws : List WriteOutcome} (h : s.writeIn = w :: ws) :
    s.dropWrite = { s with writeIn := ws } := by
  simp [State.dropWrite, h]

theorem nextWrite_cons {s : State} {w : WriteOutcome} {ws : List WriteOutcome} (h : s.writeIn = w :: ws) :
    s.nextWrite = w := by
  simp [State.nextWrite, h]

/-- An interval up to the end sends the frame at the cursor and advances the cursor (R110). -/
theorem interval_frame {s : State} (h : BetweenTicks s) {ws : List WriteOutcome} (hw : s.writeIn = .ok :: ws)
    (hc : s.cursor ≤ s.stepCount) (m : Nat) :
    intervals (m + 1) s = intervals m { s with
      writeIn := ws, cursor := s.cursor + 1
      history := s.history ++ [.wrote (frame (perChan s.tickValue)) .ok] } := by
  rw [intervals_succ h, tick_ok (s := { s with tickPending := true }) hc (nextWrite_cons hw),
    dropWrite_cons (s := { s with tickPending := true }) hw, tickValue_tickPending]
  obtain ⟨-, -, hp, -⟩ := h
  rw [← hp]

/-- An interval past the end stops the run (R110, R112). -/
theorem interval_past {s : State} (h : BetweenTicks s) {ws : List WriteOutcome} (hw : s.writeIn = .ok :: ws)
    (hc : s.stepCount < s.cursor) (m : Nat) :
    intervals (m + 1) s = intervals m { s with
      writeIn := ws, link := .closed, events := s.events ||| 0x0001
      history := s.history ++ [.wrote idleFrame .ok, .closed] } := by
  rw [intervals_succ h, tick_past (s := { s with tickPending := true }) hc,
    dropWrite_cons (s := { s with tickPending := true }) hw,
    nextWrite_cons (s := { s with tickPending := true }) hw, if_pos rfl]
  obtain ⟨-, h0, hp, -⟩ := h
  rw [← hp, ← h0]

/-! ### The frames of a run -/

/-- The values a tick at cursor `k` sends. -/
def State.frameAt (s : State) (k : Nat) : Vector Int 8 :=
  perChan ({ s with cursor := BitVec.ofNat 32 k } : State).tickValue

/-- The state after the frames at the cursors below `k`, with the answers `ws` still to come. -/
def State.afterFrames (s : State) (k : Nat) (ws : List WriteOutcome) : State :=
  { s with
    cursor := BitVec.ofNat 32 k, writeIn := ws
    history := s.history ++ (List.range k).map (fun i => .wrote (frame (s.frameAt i)) .ok) }

theorem afterFrames_zero {s : State} (h : s.cursor = 0) : s.afterFrames 0 s.writeIn = s := by
  have hz : BitVec.ofNat 32 0 = s.cursor := h.symm
  rw [State.afterFrames, hz, List.range_zero, List.map_nil, List.append_nil]

/-- A cursor value up to the end, as the register holds it (R18). -/
theorem cursor_le_stepCount {s : State} {k : Nat} (hk : k ≤ s.stepCount.toNat) : BitVec.ofNat 32 k ≤ s.stepCount := by
  rw [BitVec.le_def, BitVec.toNat_ofNat, Nat.mod_eq_of_lt (hk.trans_lt s.stepCount.isLt)]
  exact hk

/-- One more interval sends one more frame. -/
theorem interval_afterFrames {s : State} (h : BetweenTicks s) {k : Nat} (hk : k ≤ s.stepCount.toNat)
    (ws : List WriteOutcome) (m : Nat) :
    intervals (m + 1) (s.afterFrames k (.ok :: ws)) = intervals m (s.afterFrames (k + 1) ws) := by
  have hcursor : BitVec.ofNat 32 (k + 1) = BitVec.ofNat 32 k + 1 := BitVec.ofNat_add k 1
  rw [interval_frame (s := s.afterFrames k (.ok :: ws)) h rfl (cursor_le_stepCount hk)]
  simp only [State.afterFrames, hcursor, List.range_succ, List.map_append, List.map_cons, List.map_nil,
    List.append_assoc]
  rfl

/-- By induction on the intervals: `k` of them, up to the end and each write answered `Ok`, send the first `k` frames. -/
theorem intervals_afterFrames {s : State} (h : BetweenTicks s) {k : Nat} (hk : k ≤ s.stepCount.toNat + 1)
    (ws : List WriteOutcome) (m : Nat) :
    intervals (k + m) (s.afterFrames 0 (List.replicate k WriteOutcome.ok ++ ws)) = intervals m (s.afterFrames k ws) := by
  induction k generalizing ws m with
  | zero => rw [Nat.zero_add, List.replicate_zero, List.nil_append]
  | succ k ih =>
    have hanswers : List.replicate (k + 1) WriteOutcome.ok ++ ws = List.replicate k .ok ++ .ok :: ws := by
      rw [List.replicate_succ', List.append_assoc, List.singleton_append]
    rw [hanswers, Nat.add_right_comm, Nat.add_assoc, ih (Nat.le_of_succ_le hk),
      interval_afterFrames h (Nat.le_of_succ_le_succ hk)]

/-- Below the end the frame holds the cached samples of the valid channels, and idles the others (R110). -/
theorem frameAt_channel {s : State} (h : CacheWf s) {k : Nat} (hk : k < s.stepCount.toNat) (ch : Chan) :
    if s.curveValid.getLsbD ch.val then
      ∃ x : Sample, (s.cache[ch])[k]? = some x ∧ (s.frameAt k)[ch] = (x.toNat : Int)
    else (s.frameAt k)[ch] = 1500 := by
  have hval : (BitVec.ofNat 32 k).toNat = k := by
    rw [BitVec.toNat_ofNat, Nat.mod_eq_of_lt (hk.trans s.stepCount.isLt)]
  have hlt : BitVec.ofNat 32 k < s.stepCount := by rw [BitVec.lt_def, hval]; exact hk
  rw [State.frameAt, perChan_getElem]
  split
  · next hv =>
    obtain ⟨x, hx, htick⟩ := tickValue_sample (s := { s with cursor := BitVec.ofNat 32 k }) h hv hlt
    exact ⟨x, hval ▸ hx, htick⟩
  · next hv => exact tickValue_idle fun ⟨hv', _⟩ => hv hv'

/-- At the end the frame is the idle frame (R110). -/
theorem frame_frameAt_end (s : State) : frame (s.frameAt s.stepCount.toNat) = idleFrame := by
  have hend : BitVec.ofNat 32 s.stepCount.toNat = s.stepCount := by simp
  refine congrArg frame (eq_perChan_const fun ch => ?_)
  rw [State.frameAt, perChan_getElem]
  exact tickValue_idle fun ⟨_, hlt⟩ => by simp [hend] at hlt

/-- The history of a whole run: after the frames of the samples the all-idle frame, then the stop (R112). -/
theorem afterFrames_end_history (s : State) (ws : List WriteOutcome) :
    (s.afterFrames (s.stepCount.toNat + 1) ws).history ++ [.wrote idleFrame .ok, TransportEvent.closed] =
      s.history ++ (List.range s.stepCount.toNat).map (fun k => TransportEvent.wrote (frame (s.frameAt k)) .ok) ++
        [.wrote idleFrame .ok, .wrote idleFrame .ok, TransportEvent.closed] := by
  simp [State.afterFrames, List.range_succ, frame_frameAt_end]

/-- Settles O58: `step_count + 1` intervals send a frame each, the last of them the idle frame; one more stops the run. -/
theorem aWholeRunSendsEverySample : Obligations.AWholeRunSendsEverySample := by
  intro s n more hinv hl hn hcur h0 hp hcmd hwrites
  subst hn
  obtain ⟨-, hcache, -, ⟨-, -, -, -, -, hmax, -⟩, -⟩ := hinv
  have hbetween : BetweenTicks s := ⟨hl, h0, hp, hcmd⟩
  have hanswers : s.writeIn = List.replicate (s.stepCount.toNat + 1) .ok ++ .ok :: more := by
    rw [hwrites, List.replicate_succ', List.append_assoc, List.singleton_append]
  have hpast : s.stepCount < BitVec.ofNat 32 (s.stepCount.toNat + 1) := by bv_omega
  have hframes : intervals (s.stepCount.toNat + 2) s =
      intervals 1 (s.afterFrames (s.stepCount.toNat + 1) (.ok :: more)) := by
    have hrun := intervals_afterFrames hbetween le_rfl (.ok :: more) 1
    rwa [← hanswers, afterFrames_zero hcur] at hrun
  refine ⟨s.frameAt, fun k hk => frameAt_channel hcache hk, ?_⟩
  rw [hframes, interval_past (s := s.afterFrames _ _) hbetween rfl hpast, afterFrames_end_history]
  rfl

end Sys2Proof.Machine
end

section
/-! PROOFS of the family spec/46_control.md: NOP, REG_READ, EVT_EN and EVT_CLEAR (R113-R116), from one equation for each
of their outcomes and one for `irq` (spec/10_state.md R31). -/

namespace Sys2Proof.Machine

/-! ### NOP -/

/-- NOP has no operand: every field must be zero (R113). -/
theorem decode_nop (ch : BitVec 3) (idx : BitVec 8) (a16 : BitVec 16) (a32 : BitVec 32) :
    decode (commandWord 0x00 ch idx a16 a32) =
      if ch = 0 ∧ idx = 0 ∧ a16 = 0 ∧ a32 = 0 then .ok .nop else .error .unusedField := by
  refine (decode_commandWord (ofBits_code .nop) ch idx a16 a32).trans ?_
  simp [Opcode.fieldMask, Opcode.build]

/-- A waiting command, whatever its word, holds off the tick (spec/45_scheduler.md R111). -/
theorem tickEnabled_eq_false_of_waiting {s : State} {w : CmdWord} (h : s.cmd = some w) : s.tickEnabled = false := by
  simp [State.tickEnabled, h]

/-- Settles O11: NOP is its response alone, and its word waits like any other. -/
theorem nopDoesNothing : Obligations.NopDoesNothing :=
  ⟨decode_nop, fun _ => rfl, fun _ => tickEnabled_eq_false_of_waiting⟩

/-! ### The interrupt line -/

/-- `irq` is high exactly while an enabled event is set (spec/10_state.md R31). -/
theorem irq_iff (s : State) : s.irq = true ↔ s.events &&& s.eventEn ≠ 0 := by
  simp [State.irq]

/-- A single bit, zero-extended to the response data, is 1 exactly when it is set. -/
theorem setWidth_ofBool_eq_ite (b : Bool) : (BitVec.ofBool b).setWidth 56 = if b then 1 else 0 := by
  cases b with
  | false => rfl
  | true => rfl

/-! ### REG_READ -/

/-- REG_READ has the register number alone (R114). -/
theorem decode_regRead (ch : BitVec 3) (idx : BitVec 8) (a16 : BitVec 16) (a32 : BitVec 32) :
    decode (commandWord 0x01 ch idx a16 a32) =
      if ch = 0 ∧ a16 = 0 ∧ a32 = 0 then .ok (.regRead idx) else .error .unusedField := by
  refine (decode_commandWord (ofBits_code .regRead) ch idx a16 a32).trans ?_
  simp [Opcode.fieldMask, Opcode.build]

theorem readReg_cacheStale (s : State) : readReg s .cacheStale = if s.cacheStale then 1 else 0 :=
  setWidth_ofBool_eq_ite s.cacheStale

theorem readReg_tickPending (s : State) : readReg s .tickPending = if s.tickPending then 1 else 0 :=
  setWidth_ofBool_eq_ite s.tickPending

theorem readReg_irq (s : State) : readReg s .irq = if s.events &&& s.eventEn ≠ 0 then 1 else 0 := by
  simp only [readReg, setWidth_ofBool_eq_ite, irq_iff]

/-- Settles O12: `exec_regRead_some` at each number of the map, where the three registers of one bit have their value by
the lemmas above; `exec_regRead_none` at the reserved numbers. -/
theorem regReadReturnsTheRegister : Obligations.RegReadReturnsTheRegister := by
  unfold Obligations.RegReadReturnsTheRegister
  refine ⟨decode_regRead, fun s => ?_, fun s _ h => exec_regRead_none (regOperand_none h) s⟩
  rw [← readReg_cacheStale, ← readReg_tickPending, ← readReg_irq]
  exact ⟨exec_regRead_some (r := .link) rfl s, exec_regRead_some (r := .mode) rfl s,
    exec_regRead_some (r := .freq) rfl s, exec_regRead_some (r := .interval) rfl s,
    exec_regRead_some (r := .port) rfl s, exec_regRead_some (r := .baud) rfl s,
    exec_regRead_some (r := .cursor) rfl s, exec_regRead_some (r := .stepCount) rfl s,
    exec_regRead_some (r := .rmax) rfl s, exec_regRead_some (r := .curveValid) rfl s,
    exec_regRead_some (r := .cacheStale) rfl s, exec_regRead_some (r := .events) rfl s,
    exec_regRead_some (r := .eventEn) rfl s, exec_regRead_some (r := .lastErr) rfl s,
    exec_regRead_some (r := .crc) rfl s, exec_regRead_some (r := .tickCtr) rfl s,
    exec_regRead_some (r := .tickPending) rfl s, exec_regRead_some (r := .irq) rfl s⟩

/-! ### EVT_EN -/

/-- EVT_EN has the mask alone (R115). -/
theorem decode_evtEn (ch : BitVec 3) (idx : BitVec 8) (a16 : BitVec 16) (a32 : BitVec 32) :
    decode (commandWord 0x02 ch idx a16 a32) =
      if ch = 0 ∧ idx = 0 ∧ a32 = 0 then .ok (.evtEn a16) else .error .unusedField := by
  refine (decode_commandWord (ofBits_code .evtEn) ch idx a16 a32).trans ?_
  simp [Opcode.fieldMask, Opcode.build]

theorem exec_evtEn_mask {mask : BitVec 16} (h : mask.toNat ≤ 0xF) (s : State) :
    exec (.evtEn mask) s = .next ({ s with eventEn := mask }.respond .ok 0) := by
  simp only [exec, execEvtEn, maskOperand_some h]

/-- EVT_EN refuses a mask with a reserved bit (R115). -/
theorem exec_evtEn_reserved {mask : BitVec 16} (h : 0xF < mask.toNat) (s : State) :
    exec (.evtEn mask) s = .next (s.fail .invalidArgument) := by
  simp only [exec, execEvtEn, maskOperand_none h]

/-- Settles O13: `exec_evtEn_mask` and `exec_evtEn_reserved`; the line is read from the new mask. -/
theorem evtEnSetsTheMask : Obligations.EvtEnSetsTheMask := by
  unfold Obligations.EvtEnSetsTheMask
  refine ⟨decode_evtEn, fun s mask => ?_⟩
  split
  · next h => exact ⟨_, exec_evtEn_mask h s, rfl, irq_iff _⟩
  · next h => exact exec_evtEn_reserved (Nat.lt_of_not_le h) s

/-! ### EVT_CLEAR -/

/-- EVT_CLEAR has the mask alone (R116). -/
theorem decode_evtClear (ch : BitVec 3) (idx : BitVec 8) (a16 : BitVec 16) (a32 : BitVec 32) :
    decode (commandWord 0x03 ch idx a16 a32) =
      if ch = 0 ∧ idx = 0 ∧ a32 = 0 then .ok (.evtClear a16) else .error .unusedField := by
  refine (decode_commandWord (ofBits_code .evtClear) ch idx a16 a32).trans ?_
  simp [Opcode.fieldMask, Opcode.build]

theorem exec_evtClear_mask {mask : BitVec 16} (h : mask.toNat ≤ 0xF) (s : State) :
    exec (.evtClear mask) s =
      .next ({ s with events := s.events &&& ~~~mask }.respond .ok ((s.events &&& ~~~mask).setWidth 56)) := by
  simp only [exec, execEvtClear, maskOperand_some h]

/-- EVT_CLEAR refuses a mask with a reserved bit (R116). -/
theorem exec_evtClear_reserved {mask : BitVec 16} (h : 0xF < mask.toNat) (s : State) :
    exec (.evtClear mask) s = .next (s.fail .invalidArgument) := by
  simp only [exec, execEvtClear, maskOperand_none h]

/-- Settles O14: `exec_evtClear_mask` and `exec_evtClear_reserved`; the line is read from the events still set. -/
theorem evtClearClearsTheBits : Obligations.EvtClearClearsTheBits := by
  unfold Obligations.EvtClearClearsTheBits
  refine ⟨decode_evtClear, fun s mask => ?_⟩
  split
  · next h => exact ⟨_, exec_evtClear_mask h s, rfl, irq_iff _⟩
  · next h => exact exec_evtClear_reserved (Nat.lt_of_not_le h) s

end Sys2Proof.Machine
end

section
/-! PROOFS of the family spec/60_exceptions.md: the operand check (R121) and that failures are precise (R124). -/

namespace Sys2Proof.Machine

/-! ### Ill-formed operands -/

/-- Settles O43: the six commands whose operands have a check, each by its own refusal; no other command is ill-formed. -/
theorem illegalOperandsFail : Obligations.IllegalOperandsFail := by
  intro i s h
  cases i with
  | regRead reg => exact exec_regRead_none (regOperand_none (Nat.lt_of_not_le (of_decide_eq_false h))) s
  | evtEn mask => exact exec_evtEn_reserved (Nat.lt_of_not_le (of_decide_eq_false h)) s
  | evtClear mask => exact exec_evtClear_reserved (Nat.lt_of_not_le (of_decide_eq_false h)) s
  | crcFeed byte => exact exec_crcFeed_wide (Nat.lt_of_not_le (of_decide_eq_false h)) s
  | setMode mode => exact exec_setMode_above (Nat.lt_of_not_le (of_decide_eq_false h)) s
  | setFreq freq =>
    have hz : freq = 0 := BitVec.eq_of_toNat_eq (not_not.1 (of_decide_eq_false h))
    rw [hz, exec_setFreq_zero]
  | nop | crcClear | wpAdd | wpUpdate | wpRemove | wpRead | wpCount | curveEval | cacheRead | setPort | setBaud
  | connect | start | stop => cases h

/-! ### Precise failures -/

/-- From `s` to `t` one response is sent, and if its code is an error that no write gives, the block's state is as it
was but for that code in `last_err` (R124). -/
def FailsPrecisely (s t : State) : Prop :=
  ∃ (e : ErrCode) (d : Data), t.responses = s.responses ++ [respWord e d] ∧
    (e ≠ .ok → e ≠ .linkNotOpen → e ≠ .writeFailed → t.blockOnly = { s.blockOnly with lastErr := e })

theorem failsPrecisely_of_ok {s t : State} {d : Data} (hr : t.responses = s.responses ++ [respWord .ok d]) :
    FailsPrecisely s t :=
  ⟨.ok, d, hr, fun h => absurd rfl h⟩

/-- A write's outcome as the response is OK or one of the two codes that R124 excepts (spec/45_scheduler.md R100). -/
theorem failsPrecisely_of_write {s t : State} {w : WriteOutcome} {d : Data}
    (hr : t.responses = s.responses ++ [respWord w.errCode d]) : FailsPrecisely s t := by
  refine ⟨w.errCode, d, hr, fun hok hopen hfailed => ?_⟩
  cases w with
  | ok => exact absurd rfl hok
  | notOpen => exact absurd rfl hopen
  | failed n => exact absurd rfl hfailed

theorem fail_failsPrecisely (s : State) (e : ErrCode) : FailsPrecisely s (s.fail e) :=
  ⟨e, 0, rfl, fun _ _ _ => rfl⟩

/-- A failed open has taken the transport's answer and recorded the request: both lie outside the block's state. -/
theorem failedOpen_failsPrecisely (s : State) (ev : TransportEvent) (e : ErrCode) :
    FailsPrecisely s (({ s.dropOpen with history := s.history ++ [ev] } : State).fail e) :=
  ⟨e, 0, rfl, fun _ _ _ => rfl⟩

theorem connectOp_failsPrecisely (s : State) : FailsPrecisely s (connectOp s) := by
  rcases connectOp_cases s with ⟨-, hx⟩ | ⟨-, hx⟩ | ⟨-, hx⟩
  · rw [hx]; exact fail_failsPrecisely s .invalidState
  · rw [hx]; exact failedOpen_failsPrecisely s _ .linkOpenFailed
  · rw [hx]; exact failsPrecisely_of_ok rfl

theorem stopOp_failsPrecisely (s : State) : FailsPrecisely s (stopOp s) := by
  rcases stopOp_cases s with ⟨-, hx⟩ | ⟨-, hx⟩
  · rw [hx]; exact failsPrecisely_of_ok rfl
  · rw [hx]; exact failsPrecisely_of_write rfl

/-- A begun stream responds with the outcome of its start write (spec/45_scheduler.md R107). -/
theorem beginStream_responses (p : Params) (s : State) :
    ∃ w : WriteOutcome, (beginStream p s).responses = s.responses ++ [respWord w.errCode 0] := by
  have hr : (rebuild p s).responses = s.responses := by rw [rebuild_eq]
  rcases beginStream_cases p s with hx | ⟨w, w', -, hx⟩
  · exact ⟨.ok, by rw [hx, ← hr]; rfl⟩
  · exact ⟨w, by rw [hx, ← hr]; rfl⟩

theorem startOp_failsPrecisely (p : Params) (s : State) : FailsPrecisely s (startOp p s) := by
  rcases startOp_cases p s with ⟨e, -, hx⟩ | ⟨-, hx⟩ | ⟨u, -, hx, hu⟩
  · rw [hx]; exact fail_failsPrecisely s e
  · rw [hx]; exact failedOpen_failsPrecisely s _ .linkOpenFailed
  · have hur : u.responses = s.responses := by
      rcases hu with ⟨-, rfl⟩ | ⟨-, rfl⟩
      · rfl
      · rfl
    obtain ⟨w, hw⟩ := beginStream_responses p u
    rw [hx]
    exact failsPrecisely_of_write (by rw [hw, hur])

theorem exec_failsPrecisely {i : Instr} {s t : State} (h : exec i s = .next t) : FailsPrecisely s t := by
  rcases exec_cases h with ⟨e, -, rfl⟩ | ⟨u, d, he, rfl⟩ | ⟨-, rfl⟩ | ⟨-, rfl⟩ | ⟨-, rfl⟩
  · exact fail_failsPrecisely s e
  · obtain ⟨hr, -⟩ := edit_responses he
    exact failsPrecisely_of_ok (congrArg (· ++ _) hr)
  · exact connectOp_failsPrecisely s
  · exact startOp_failsPrecisely Config.params s
  · exact stopOp_failsPrecisely s

/-- Settles O44: `exec_failsPrecisely`, whose response is the given one, since a response word determines its code. -/
theorem failuresArePrecise : Obligations.FailuresArePrecise := by
  intro i s t e d h hr hok hopen hfailed
  obtain ⟨e', d', hr', hprecise⟩ := exec_failsPrecisely h
  have hword : respWord e' d' = respWord e d := by simpa using hr'.symm.trans hr
  obtain ⟨rfl, -⟩ := respWord_inj.1 hword
  exact hprecise hok hopen hfailed

end Sys2Proof.Machine
end
